-- ==== Sys2Proof/Word.lean ====
section
/-!
DEFINITION. The value types of the SBVM core: bytes of the code space and signed 32-bit words.
-/
namespace Sys2Proof

/-- A byte of the code space (20_memory.md R40). -/
abbrev Byte := BitVec 8

/-- An i32: a 32-bit two's-complement pattern, read as signed by `BitVec.toInt`
(00_scope.md section 5, 42_alu.md R110). -/
abbrev Word := BitVec 32

/-- `min_i32`, the pattern 0x80000000 (00_scope.md section 5). -/
abbrev minI32 : Word := 0x80000000#32

/-- `max_i32`, the pattern 0x7FFFFFFF (00_scope.md section 5). -/
abbrev maxI32 : Word := 0x7FFFFFFF#32

end Sys2Proof
end

