-- ==== Sys2Proof/Config.lean ====
section
/-!
DEFINITION. What is fixed when an Interpreter is constructed (00_scope.md R3; for the two
parameters of R4 that is the model's choice, log 29), and the free values.
-/
namespace Sys2Proof

/-- The parameter `DIV_OVERFLOW` (00_scope.md R4, 42_alu.md R117): the result of dividing -2^31 by -1. -/
inductive DivOverflow where
  /-- The result is wrap32(2^31) = min_i32: the spec's default. -/
  | wrap
  /-- The result is an unconstrained i32, a draw. -/
  | faultFreeAny
deriving DecidableEq, Repr

/-- The parameters of one Interpreter. The capacities are fixed when it is constructed (00_scope.md R3); the
fourth size parameter, the code length `L`, is the length of the bound code (`State.code`). When and by
whom the two behavioural parameters (R4) are set the spec leaves open: that construct fixes them too is a
DESIGN CHOICE, log 29. -/
structure Config where
  /-- `STACK_CAP`: capacity of the operand stack, in 32-bit values. -/
  stackCap : Nat
  /-- `CALL_CAP`: capacity of the call stack, in frames. -/
  callCap : Nat
  /-- `MEM_SIZE`: number of 32-bit cells of the data memory. -/
  memSize : Nat
  /-- `VALIDATE_UNTAKEN_TARGET`: whether JZ and JNZ check the target of a jump that is not taken
  (00_scope.md R4). -/
  validateUntakenTarget : Bool
  /-- `DIV_OVERFLOW` (00_scope.md R4). -/
  divOverflow : DivOverflow
deriving DecidableEq, Repr

/-- The default configuration of 00_scope.md R3 and R4. -/
def Config.standard : Config where
  stackCap := 1024
  callCap := 256
  memSize := 256
  validateUntakenTarget := false
  divOverflow := .wrap

/-- The free values: the n-th value drawn under `DIV_OVERFLOW = fault_free_any` (42_alu.md R117,
93_implementation_defined.md U1: "any value (a draw)"). It has no body, so nothing can be proved of it.
DESIGN CHOICE, safe: log 4. -/
opaque Config.freeWord : Nat → Word

end Sys2Proof
end

