-- ==== Sys2Proof/Syntax.lean ====
section
/-!
DEFINITION. The instructions of the SBVM core: one constructor for each row of spec/opcode_table.json.
-/
namespace Sys2Proof

/-- The closed set of 18 instructions, in the order of the opcode map (30_encoding.md R64). The five
instructions of format `OPI` carry their 4-byte immediate (30_encoding.md R62, R63). -/
inductive Instr where
  /-- No operation (R86). -/
  | nop
  /-- Push the immediate (R100). -/
  | push (imm : Word)
  /-- Discard the top of stack (R101). -/
  | pop
  /-- Duplicate the top of stack (R102). -/
  | dup
  /-- Exchange the top two entries (R103). -/
  | swap
  /-- Addition with wraparound (R114). -/
  | add
  /-- Subtraction with wraparound (R115). -/
  | sub
  /-- Multiplication with wraparound (R116). -/
  | mul
  /-- Division truncated toward zero (R117). -/
  | div
  /-- Unconditional jump (R131). -/
  | jmp (target : Word)
  /-- Pop a value, jump if it is zero (R132). -/
  | jz (target : Word)
  /-- Pop a value, jump if it is not zero (R133). -/
  | jnz (target : Word)
  /-- Save a frame and jump (R134). -/
  | call (target : Word)
  /-- Return to the saved address (R135). -/
  | ret
  /-- Replace an address by the cell it names (R150). -/
  | load
  /-- Pop an address and a value, write the cell (R151). -/
  | store
  /-- Pop a value and send it to the output (R160). -/
  | print
  /-- Halt normally (R87). -/
  | stop
deriving DecidableEq, Repr

end Sys2Proof
end

