-- ==== Sys2Proof/WellFormed.lean ====
section
/-!
DEFINITION. Well-formedness: of an instruction, of an instruction against a code length, and of what the
host constructs an Interpreter from.
-/
namespace Sys2Proof

/-- Every term of `Instr` is a legal encoding: "every one of the 2^32 immediate bit patterns is a legal
encoding; whether a target is usable is a run-time check, not an encoding rule" (30_encoding.md R66). The
immediates are 32-bit patterns by their type, so nothing is left to refuse. -/
def Instr.wf : Instr → Bool
  | .nop => true
  | .push _ => true
  | .pop => true
  | .dup => true
  | .swap => true
  | .add => true
  | .sub => true
  | .mul => true
  | .div => true
  | .jmp _ => true
  | .jz _ => true
  | .jnz _ => true
  | .call _ => true
  | .ret => true
  | .load => true
  | .store => true
  | .print => true
  | .stop => true

/-- The jump or call target of an instruction, if it has one (43_control_transfer.md R130). -/
def Instr.target? : Instr → Option Word
  | .jmp t => some t
  | .jz t => some t
  | .jnz t => some t
  | .call t => some t
  | .nop => none
  | .push _ => none
  | .pop => none
  | .dup => none
  | .swap => none
  | .add => none
  | .sub => none
  | .mul => none
  | .div => none
  | .ret => none
  | .load => none
  | .store => none
  | .print => none
  | .stop => none

/-- The target, if there is one, lies in 0 to L: the part of "a program is well formed" that one
instruction can satisfy by itself (70_reset_and_hazards.md R214). The core checks it at run time. -/
def Instr.targetInRange (codeLength : Nat) (i : Instr) : Bool :=
  match i.target? with
  | some t => decide (0 ≤ t.toInt ∧ t.toInt ≤ codeLength)
  | none => true

/-- 0 <= STACK_CAP <= 2^31 - 1 (00_scope.md R3). -/
def Config.stackCapOk (c : Config) : Bool := decide (c.stackCap ≤ 2 ^ 31 - 1)

/-- 0 <= CALL_CAP <= 2^31 - 1 (00_scope.md R3). -/
def Config.callCapOk (c : Config) : Bool := decide (c.callCap ≤ 2 ^ 31 - 1)

/-- 0 <= MEM_SIZE <= 2^31 (00_scope.md R3). -/
def Config.memSizeOk (c : Config) : Bool := decide (c.memSize ≤ 2 ^ 31)

/-- The three capacities are within the bounds of 00_scope.md R3. -/
def Config.wf (c : Config) : Bool := c.stackCapOk && c.callCapOk && c.memSizeOk

/-- 0 <= L <= 2^31 - 1 (00_scope.md R3). -/
def codeLengthOk (code : List Byte) : Bool := decide (code.length ≤ 2 ^ 31 - 1)

/-- An Interpreter can be constructed from these (00_scope.md R3; 93_implementation_defined.md U11:
refuse "code length above 2^31 - 1, capacities outside the bounds of rule R3"). -/
def launchOk (c : Config) (code : List Byte) : Bool := c.wf && codeLengthOk code

end Sys2Proof
end

