-- ==== Sys2Proof/Decode.lean ====
section
/-!
DEFINITION. The decoder, total on any bytes, and the encoder (30_encoding.md R60 to R69).
-/
namespace Sys2Proof

/-- Why bytes are no instruction. -/
inductive DecodeError where
  /-- There is no byte to decode. -/
  | noByte
  /-- The opcode byte is one of 18 to 255 (30_encoding.md R66). -/
  | unknownOpcode (opcode : Byte)
  /-- Fewer than 4 bytes follow an opcode that needs an immediate (30_encoding.md R63). -/
  | truncated (opcode : Byte)
deriving DecidableEq, Repr

/-- The four bytes of an immediate, least significant first, as one word
(30_encoding.md R62, 20_memory.md R42). -/
def wordOfBytes (b0 b1 b2 b3 : Byte) : Word := b3 ++ b2 ++ b1 ++ b0

/-- The four bytes of a word, least significant first (30_encoding.md R62, R69). -/
def bytesOfWord (v : Word) : List Byte :=
  [v.extractLsb' 0 8, v.extractLsb' 8 8, v.extractLsb' 16 8, v.extractLsb' 24 8]

/-- The immediate at the head of `bytes` and the bytes after it; none if fewer than four bytes are there
(30_encoding.md R63). -/
def takeImmediate (bytes : List Byte) : Option (Word × List Byte) :=
  match bytes with
  | b0 :: b1 :: b2 :: b3 :: rest => some (wordOfBytes b0 b1 b2 b3, rest)
  | _ => none

/-- An instruction of format `OPI`: the opcode byte has been read, its immediate follows
(30_encoding.md R62, R63). -/
def decodeImmediate (opcode : Byte) (mk : Word → Instr) (rest : List Byte) :
    Except DecodeError (Instr × List Byte) :=
  match takeImmediate rest with
  | some (imm, rest') => .ok (mk imm, rest')
  | none => .error (.truncated opcode)

/-- The instruction at the head of `bytes` and the bytes after it. All 8 bits of the opcode byte are
compared (30_encoding.md R64), the length follows from it alone (R65), every other byte is refused by
name (R66). The numbering is the spec's decision D1: log 11. -/
def decode (bytes : List Byte) : Except DecodeError (Instr × List Byte) :=
  match bytes with
  | [] => .error .noByte
  | opcode :: rest =>
    match opcode.toNat with
    | 0 => .ok (.nop, rest)
    | 1 => decodeImmediate opcode .push rest
    | 2 => .ok (.pop, rest)
    | 3 => .ok (.dup, rest)
    | 4 => .ok (.swap, rest)
    | 5 => .ok (.add, rest)
    | 6 => .ok (.sub, rest)
    | 7 => .ok (.mul, rest)
    | 8 => .ok (.div, rest)
    | 9 => decodeImmediate opcode .jmp rest
    | 10 => decodeImmediate opcode .jz rest
    | 11 => decodeImmediate opcode .jnz rest
    | 12 => decodeImmediate opcode .call rest
    | 13 => .ok (.ret, rest)
    | 14 => .ok (.load, rest)
    | 15 => .ok (.store, rest)
    | 16 => .ok (.print, rest)
    | 17 => .ok (.stop, rest)
    | _ => .error (.unknownOpcode opcode)

/-- The instruction that decoding `bytes` gives, and none where the decoder refuses. -/
def decode? (bytes : List Byte) : Option Instr :=
  match decode bytes with
  | .ok (i, _) => some i
  | .error _ => none

/-- The opcode byte of an instruction (30_encoding.md R64). -/
def Instr.opcode : Instr → Byte
  | .nop => 0
  | .push _ => 1
  | .pop => 2
  | .dup => 3
  | .swap => 4
  | .add => 5
  | .sub => 6
  | .mul => 7
  | .div => 8
  | .jmp _ => 9
  | .jz _ => 10
  | .jnz _ => 11
  | .call _ => 12
  | .ret => 13
  | .load => 14
  | .store => 15
  | .print => 16
  | .stop => 17

/-- The immediate of an instruction of format `OPI` (30_encoding.md R62). -/
def Instr.immediate? : Instr → Option Word
  | .push v => some v
  | .jmp t => some t
  | .jz t => some t
  | .jnz t => some t
  | .call t => some t
  | .nop => none
  | .pop => none
  | .dup => none
  | .swap => none
  | .add => none
  | .sub => none
  | .mul => none
  | .div => none
  | .ret => none
  | .load => none
  | .store => none
  | .print => none
  | .stop => none

/-- The bytes of an instruction in ascending offset order (30_encoding.md R61, R62, R69). -/
def encode (i : Instr) : List Byte :=
  match i.immediate? with
  | some v => i.opcode :: bytesOfWord v
  | none => [i.opcode]

/-- The length of the instruction that an opcode byte begins: a function of that byte alone, 0 for an
unknown byte (30_encoding.md R65). -/
def lengthOfOpcode (opcode : Byte) : Nat :=
  if opcode ∈ [1#8, 9#8, 10#8, 11#8, 12#8] then 5
  else if opcode.toNat < 18 then 1
  else 0

/-- The length of an instruction in bytes (30_encoding.md R60, R65). -/
def Instr.length (i : Instr) : Nat := lengthOfOpcode i.opcode

/-- The bytes of a program: its instructions in order with no padding (30_encoding.md R69). -/
def encodeProgram : List Instr → List Byte
  | [] => []
  | i :: is => encode i ++ encodeProgram is

/-- The number of bytes of the longest instruction (30_encoding.md R60). -/
def maxInstrBytes : Nat := 5

/-- Byte number `k` of an instruction numbered as spec/opcode_table.json numbers it: bit 0 is the least
significant bit of the first byte, and every bit from `nbits` up is 0. -/
def tableByte (nbits w k : Nat) : Byte := BitVec.ofNat 8 ((w % 2 ^ nbits) / 2 ^ (8 * k))

/-- The bytes of such an instruction as the code buffer holds them, up to the longest instruction. -/
def tableBytes (nbits w : Nat) : List Byte :=
  [tableByte nbits w 0, tableByte nbits w 1, tableByte nbits w 2, tableByte nbits w 3,
    tableByte nbits w 4]

/-- What the decoder reads from an instruction word of spec/opcode_table.json. -/
def decodeTableWord (nbits w : Nat) : Option Instr := decode? (tableBytes nbits w)

end Sys2Proof
end

