-- ==== Sys2Proof/Machine/State.lean ====
section
/-!
DEFINITION. The state of the SBVM core as plain data, its faults and refusals, and the state after reset
(10_state.md R31, 70_reset_and_hazards.md R210).
-/
namespace Sys2Proof.Machine

/-- The nine fault kinds, a closed list (60_exceptions.md R180, R181). A fault of the SBVM core is recorded
in `State.status` by `State.raise` (R184), and the step that raises it answers a NEXT state: no step of
this model ends in `Host.Outcome.fault`. DEDUCED: log 1. -/
inductive Fault where
  /-- Raised by PUSH and DUP when the operand stack is full. Safe: the spec's own fault. -/
  | stackOverflow
  /-- Raised by every instruction that finds fewer operands than it needs. Safe: the spec's own fault. -/
  | stackUnderflow
  /-- Raised by CALL when the call stack is full. Safe: the spec's own fault. -/
  | callStackOverflow
  /-- Raised by RET with no active frame. Safe: the spec's own fault. -/
  | callStackUnderflow
  /-- Raised by DIV with divisor 0. Safe: the spec's own fault. -/
  | divisionByZero
  /-- Raised by LOAD and STORE for an address outside 0 to MEM_SIZE - 1. Safe: the spec's own fault. -/
  | invalidMemoryAddress
  /-- Raised by JMP, JZ, JNZ and CALL for a target outside 0 to L. Safe: the spec's own fault. -/
  | invalidJumpTarget
  /-- Raised by the decoder for an opcode byte 18 to 255. Safe: the spec's own fault. -/
  | unknownOpcode
  /-- Raised by the decode of an immediate that would read past the end of the code. Safe: the spec's own
  fault. -/
  | outOfBounds
deriving DecidableEq, Repr

/-- Why a step has no transition. Every one but `notModelled` is a host request that the spec tells a model
to refuse; none is raised by an instruction. -/
inductive Refusal where
  /-- An instruction without a meaning. No arm of `exec` answers it. Safe. -/
  | notModelled (mnemonic : String)
  /-- run() requested in a status other than Ready (46_host_interface.md R167). Raised by
  `State.serveRequest`. Safe: the model says nothing of such a host. -/
  | runNotReady
  /-- reset requested while Running (46_host_interface.md R168). Raised by `State.serveRequest`. Safe. -/
  | resetWhileRunning
  /-- Another code buffer bound while Running: the code is constant during a run (20_memory.md R40,
  93_implementation_defined.md U6). Raised by `State.serveRequest`. Safe. -/
  | constructWhileRunning
  /-- construct with a code length or capacity outside the bounds of 00_scope.md R3
  (93_implementation_defined.md U11). Raised by `State.serveRequest`. Safe. -/
  | launchOutOfBounds
deriving DecidableEq, Repr

/-- The terminal outcome of a run: "exactly one fault kind", or Normal (46_host_interface.md R167). -/
inductive RunOutcome where
  /-- Halted by STOP or by reaching the end of the code. -/
  | normal
  /-- Halted by a fault of this kind. -/
  | fault (kind : Fault)
deriving DecidableEq, Repr

/-- The run state machine (10_state.md R12). -/
inductive Status where
  | ready
  | running
  | halted (outcome : RunOutcome)
deriving DecidableEq, Repr

/-- A call frame (10_state.md R24). -/
structure Frame where
  /-- Offset into the code just past the CALL. -/
  returnAddress : Nat
  /-- The operand-stack size at the call: stored by CALL, dropped by RET, read by nothing (R28). -/
  frameMarker : Nat
deriving DecidableEq, Repr

/-- The data memory (20_memory.md R44): pairs of a cell address and the cell's 32-bit value, in the one
canonical form `Memory.wf`. A cell is indivisible (R50), so the smallest unit is the word. DESIGN CHOICE,
safe: log 5. -/
abbrev Memory := List (Nat × Word)

/-- What a cell that the list does not hold reads as: "all cells initialized to zero" (20_memory.md R45). -/
def Memory.unlisted : Word := 0

/-- Canonical form from address `bound` on: addresses strictly rising, none below `bound`, no cell equal
to what an unlisted cell reads as. -/
def Memory.wfFrom (bound : Nat) : Memory → Bool
  | [] => true
  | (a, v) :: m => decide (bound ≤ a) && decide (v ≠ Memory.unlisted) && Memory.wfFrom (a + 1) m

/-- The canonical form of the data memory: equal memories are equal lists. -/
def Memory.wf (m : Memory) : Bool := Memory.wfFrom 0 m

/-- A request of the host that waits to be served (46_host_interface.md R166 to R168; the ports `run_req`
and `reset_req` of R171). -/
inductive HostRequest where
  /-- construct(code_buffer), with the capacities it fixes (R166) and, DESIGN CHOICE (log 29), the two
  behavioural parameters of 00_scope.md R4. -/
  | construct (cfg : Config) (code : List Byte)
  /-- run() (R167). -/
  | run
  /-- reset (R168). -/
  | reset
deriving DecidableEq, Repr

/-- The state of one Interpreter (10_state.md R31), the parameters of its step relation, and two fields
of the model's own (`draws`, `request`). -/
structure State where
  /-- The parameters of the step relation (10_state.md R31; 00_scope.md R3, R4), here fixed at construction: of
  the two of R4 that is a DESIGN CHOICE, log 29. -/
  cfg : Config
  /-- The bound code `code[0 .. L-1]` (20_memory.md R40). -/
  code : List Byte
  /-- The instruction pointer, a byte offset into the code (10_state.md R10). -/
  ip : Nat
  /-- The running flag (10_state.md R11). -/
  running : Bool
  /-- The state of the run state machine (10_state.md R12). -/
  status : Status
  /-- The operand stack, top of stack first; `sp` is its length (10_state.md R16, R17). -/
  stack : List Word
  /-- The call stack, innermost frame first; `csp` is its length (10_state.md R24, R25). -/
  calls : List Frame
  /-- The data memory (20_memory.md R44). -/
  mem : Memory
  /-- The output log, oldest value first (10_state.md R30). -/
  out : List Word
  /-- The model's own: how many free values DIV has drawn (42_alu.md R117). DESIGN CHOICE: log 4. -/
  draws : Nat
  /-- The model's own: the host request that the next step serves. DESIGN CHOICE: log 2. -/
  request : Option HostRequest
deriving DecidableEq, Repr

/-- A freshly constructed Interpreter bound to `code`: "fresh containers, ip=0", status Ready
(46_host_interface.md R166, 70_reset_and_hazards.md R210). -/
def State.fresh (cfg : Config) (code : List Byte) (draws : Nat) : State where
  cfg := cfg
  code := code
  ip := 0
  running := false
  status := .ready
  stack := []
  calls := []
  mem := []
  out := []
  draws := draws
  request := none

/-- The machine right after reset (70_reset_and_hazards.md R210), in the default configuration of
00_scope.md R3 and R4. The spec gives no code bytes to a machine nothing has been loaded into: the code
is empty. DESIGN CHOICE, unsafe: log 3. -/
def State.reset : State := State.fresh Config.standard [] 0

end Sys2Proof.Machine
end

