-- ==== Sys2Proof/Machine/Flags.lean ====
section
/-!
DEFINITION. The tests of the SBVM core. There are no condition codes and no flags register (10_state.md
R13); the ALU and the two stack controllers report the conditions below, computed from the state.
-/
namespace Sys2Proof.Machine

/-- The ALU's zero test: all 32 bits clear (42_alu.md R113). -/
def zeroTest (v : Word) : Bool := decide (v = 0)

/-- `sp`, the size of the operand stack (10_state.md R17). -/
def State.sp (s : State) : Nat := s.stack.length

/-- `csp`, the size of the call stack (10_state.md R25). -/
def State.csp (s : State) : Nat := s.calls.length

/-- `L`, the length of the bound code (20_memory.md R40). -/
def State.codeLength (s : State) : Nat := s.code.length

/-- sp = STACK_CAP, the condition of StackOverflow (10_state.md R18). -/
def State.stackFull (s : State) : Bool := decide (s.sp = s.cfg.stackCap)

/-- csp = CALL_CAP: the call stack controller's `full` (43_control_transfer.md R136). -/
def State.callFull (s : State) : Bool := decide (s.csp = s.cfg.callCap)

/-- csp = 0: the call stack controller's `empty` (43_control_transfer.md R136). -/
def State.callEmpty (s : State) : Bool := decide (s.csp = 0)

end Sys2Proof.Machine
end

