-- ==== Sys2Proof/Machine/Alu.lean ====
section
/-!
DEFINITION. The arithmetic-logic unit (42_alu.md): operands are read as signed integers, the exact result
is computed, and it is narrowed to 32 bits at the end. It writes no flags and has no state (R110, R118).
-/
namespace Sys2Proof.Machine

/-- `wrap32(n)`: the i32 congruent to n modulo 2^32 (00_scope.md section 5). -/
def wrap32 (n : Int) : Word := BitVec.ofInt 32 n

/-- `tdiv(a, b)`: the quotient rounded toward zero (00_scope.md section 5). -/
def tdiv (a b : Int) : Int := Int.tdiv a b

/-- The functions of the ALU: the four that an opcode selects (42_alu.md R118) and those of 42_alu.md R120,
which no opcode reaches (log 17). -/
inductive AluFn where
  | add | sub | mul | div
  | mod | and | or | xor
  | eq | ne | lt | le | gt | ge
deriving DecidableEq, Repr

/-- The divide-by-zero condition: "(function is DIV and b = 0)" (42_alu.md R118); MOD shares it (R120). -/
def divByZero (f : AluFn) (b : Word) : Bool :=
  match f with
  | .div => zeroTest b
  | .mod => zeroTest b
  | .add => false
  | .sub => false
  | .mul => false
  | .and => false
  | .or => false
  | .xor => false
  | .eq => false
  | .ne => false
  | .lt => false
  | .le => false
  | .gt => false
  | .ge => false

/-- The one division whose exact quotient is no i32: min_i32 by -1 (42_alu.md R117). -/
def divOverflows (a b : Word) : Bool := decide (a = minI32 ∧ b = -1#32)

/-- A comparison's result: 1 if it holds, else 0 (42_alu.md R120). -/
def truthWord (c : Bool) : Word := if c then 1 else 0

/-- The 32-bit result for left operand `a` and right operand `b` (42_alu.md R112, R114 to R117, R120), and
none under the divide-by-zero condition. `q` is the result of the overflowing division, which
`DIV_OVERFLOW` fixes. -/
def alu (f : AluFn) (q a b : Word) : Option Word :=
  if divByZero f b then none
  else some <|
    match f with
    | .add => wrap32 (a.toInt + b.toInt)
    | .sub => wrap32 (a.toInt - b.toInt)
    | .mul => wrap32 (a.toInt * b.toInt)
    | .div => if divOverflows a b then q else wrap32 (tdiv a.toInt b.toInt)
    | .mod => wrap32 (a.toInt - tdiv a.toInt b.toInt * b.toInt)
    | .and => a &&& b
    | .or => a ||| b
    | .xor => a ^^^ b
    | .eq => truthWord (decide (a = b))
    | .ne => truthWord (decide (a ≠ b))
    | .lt => truthWord (decide (a.toInt < b.toInt))
    | .le => truthWord (decide (a.toInt ≤ b.toInt))
    | .gt => truthWord (decide (a.toInt > b.toInt))
    | .ge => truthWord (decide (a.toInt ≥ b.toInt))

/-- What the decoder asks of the ALU (42_alu.md R118). -/
inductive AluSelect where
  /-- Its outputs are ignored. -/
  | idle
  /-- Only the zero test, on the top of stack. -/
  | zeroTest
  /-- One of the two-operand functions. -/
  | compute (f : AluFn)
deriving DecidableEq, Repr

/-- Function select, chosen by the opcode byte alone (42_alu.md R118). -/
def aluSelect (opcode : Byte) : AluSelect :=
  match opcode.toNat with
  | 5 => .compute .add
  | 6 => .compute .sub
  | 7 => .compute .mul
  | 8 => .compute .div
  | 10 => .zeroTest
  | 11 => .zeroTest
  | _ => .idle

end Sys2Proof.Machine
end

