-- ==== Sys2Proof/Machine/Ops.lean ====
section
/-!
DEFINITION. The named operations over the state: memory, address decoder, code reads, the primitives of the
two stack controllers, output, raising a fault, and the commit of an instruction.
-/
namespace Sys2Proof.Machine

/-! ### Data memory (20_memory.md) -/

/-- The value of cell `a`: the listed one, else what an unlisted cell reads as. -/
def Memory.read (m : Memory) (a : Nat) : Word :=
  match m with
  | [] => Memory.unlisted
  | (b, v) :: m' => if b = a then v else Memory.read m' a

/-- The cell `(a, v)` before `m`, left out where an unlisted cell reads the same. -/
def Memory.cons (a : Nat) (v : Word) (m : Memory) : Memory :=
  if v = Memory.unlisted then m else (a, v) :: m

/-- Cell `a` replaced by `v`, all other cells kept (20_memory.md R48). -/
def Memory.write (m : Memory) (a : Nat) (v : Word) : Memory :=
  match m with
  | [] => Memory.cons a v []
  | (b, w) :: m' =>
    if a < b then Memory.cons a v ((b, w) :: m')
    else if a = b then Memory.cons a v m'
    else (b, w) :: Memory.write m' a v

/-- `AddrValid(a)`: 0 <= a and a < MEM_SIZE as mathematical integers, a read as signed
(20_memory.md R46). -/
def State.addrValid (s : State) (a : Word) : Bool :=
  decide (0 ≤ a.toInt ∧ a.toInt < s.cfg.memSize)

/-- The cell index that a valid address names (20_memory.md R46). -/
def cellIndex (a : Word) : Nat := a.toInt.toNat

/-- `MemRead(a, 1)` (20_memory.md R47). -/
def State.memRead (s : State) (a : Word) : Except Fault Word :=
  if s.addrValid a then .ok (s.mem.read (cellIndex a)) else .error .invalidMemoryAddress

/-- `MemWrite(a, 1, v)` (20_memory.md R48). -/
def State.memWrite (s : State) (a v : Word) : Except Fault State :=
  if s.addrValid a then .ok { s with mem := s.mem.write (cellIndex a) v }
  else .error .invalidMemoryAddress

/-! ### Code space (20_memory.md) -/

/-- `CodeRead8(a)`: the byte at offset a, OutOfBounds if a + 1 > L (20_memory.md R41). -/
def State.codeRead8 (s : State) (a : Nat) : Except Fault Byte :=
  match s.code[a]? with
  | some b => .ok b
  | none => .error .outOfBounds

/-- `CodeRead32(a)`: the four bytes at offset a, little-endian, OutOfBounds if a + 4 > L
(20_memory.md R42). -/
def State.codeRead32 (s : State) (a : Nat) : Except Fault Word := do
  let b0 ← s.codeRead8 a
  let b1 ← s.codeRead8 (a + 1)
  let b2 ← s.codeRead8 (a + 2)
  let b3 ← s.codeRead8 (a + 3)
  return wordOfBytes b0 b1 b2 b3

/-! ### Operand stack controller (10_state.md R18 to R22) -/

/-- `push(v)` (10_state.md R18). -/
def State.push (s : State) (v : Word) : Except Fault State :=
  if s.stackFull then .error .stackOverflow else .ok { s with stack := v :: s.stack }

/-- `pop()`: the top of stack and the state without it (10_state.md R19). -/
def State.pop (s : State) : Except Fault (Word × State) :=
  match s.stack with
  | [] => .error .stackUnderflow
  | v :: rest => .ok (v, { s with stack := rest })

/-- `peek()` (10_state.md R20). -/
def State.peek (s : State) : Except Fault Word :=
  match s.stack with
  | [] => .error .stackUnderflow
  | v :: _ => .ok v

/-- `dup()` is "peek then push" (10_state.md R21). -/
def State.dup (s : State) : Except Fault State := do
  let v ← s.peek
  s.push v

/-- `swap()` exchanges the top two entries (10_state.md R22). -/
def State.swap (s : State) : Except Fault State :=
  match s.stack with
  | a :: b :: rest => .ok { s with stack := b :: a :: rest }
  | _ => .error .stackUnderflow

/-- Put a result where an operand that has been popped stood. The pop made room, so no overflow is
possible and none is tested (42_alu.md R114, 44_memory_ops.md R150). -/
def State.replace (s : State) (v : Word) : State := { s with stack := v :: s.stack }

/-! ### Call stack controller (10_state.md R26, R27) -/

/-- `push_frame(ra, fm)` (10_state.md R26). -/
def State.pushFrame (s : State) (f : Frame) : Except Fault State :=
  if s.callFull then .error .callStackOverflow else .ok { s with calls := f :: s.calls }

/-- `pop_frame()` (10_state.md R27). -/
def State.popFrame (s : State) : Except Fault (Frame × State) :=
  match s.calls with
  | [] => .error .callStackUnderflow
  | f :: rest => .ok (f, { s with calls := rest })

/-! ### Output, instruction pointer, halting -/

/-- `emit(v)`: append v to the output log (10_state.md R30). -/
def State.emit (s : State) (v : Word) : State := { s with out := s.out ++ [v] }

/-- The one write of `ip` at commit (10_state.md R10). -/
def State.setIp (s : State) (n : Nat) : State := { s with ip := n }

/-- `running <- false; status <- Halted(Normal)` (40_interpreter_loop.md R87, R89). -/
def State.haltNormal (s : State) : State :=
  { s with running := false, status := .halted .normal }

/-- `raise K`, the machine's one way to take an exception: status becomes Halted(Fault(K)) and running
false; applied to the state as the iteration began, it discards every write of the instruction
(60_exceptions.md R184, R185). There is no handler and no return from it (R187, R188): the way out is
`State.hostReset`. Log 1, log 7, log 12. -/
def State.raise (s : State) (k : Fault) : State :=
  { s with running := false, status := .halted (.fault k) }

/-- All or nothing (40_interpreter_loop.md R84): the writes of an instruction take effect together when no
fault condition holds, and otherwise the fault is raised on the state as the iteration began. -/
def State.commit (s : State) (r : Except Fault State) : Host.Outcome State Fault Refusal :=
  match r with
  | .ok t => .next t
  | .error k => .next (s.raise k)

/-- The reset operation (70_reset_and_hazards.md R210): every element at its reset value, with the code
binding and the capacities kept (R211), and with them the two parameters of 00_scope.md R4 (DESIGN CHOICE:
log 29). The count of free values drawn goes on, so that two runs need
not draw the same values: log 4. -/
def State.hostReset (s : State) : State := State.fresh s.cfg s.code s.draws

end Sys2Proof.Machine
end

