-- ==== Sys2Proof/Machine/Operands.lean ====
section
/-!
DEFINITION. The operand forms: implicit stack operands (10_state.md R14, 42_alu.md R111), the stack-indirect
address (44_memory_ops.md R152), absolute targets (43_control_transfer.md R130), and the length of the two
formats (30_encoding.md R61, R62).
-/
namespace Sys2Proof.Machine

/-- The offset after an instruction of format `OP` at `ip` (40_interpreter_loop.md R82). -/
def State.afterOp (s : State) : Nat := s.ip + 1

/-- The offset after an instruction of format `OPI` at `ip` (40_interpreter_loop.md R82). -/
def State.afterOpi (s : State) : Nat := s.ip + 5

/-- The two stack operands of an instruction, "b=pop, a=pop" (42_alu.md R111): `b` is the top of stack. -/
structure Operands where
  a : Word
  b : Word
  /-- The state with both popped. -/
  rest : State

/-- Pop b, then a (42_alu.md R111). -/
def State.pop2 (s : State) : Except Fault Operands := do
  let (b, s1) ← s.pop
  let (a, s2) ← s1.pop
  return { a := a, b := b, rest := s2 }

/-- `TargetValid(t)`: 0 <= t and t <= L as mathematical integers, t read as signed
(43_control_transfer.md R130). -/
def State.targetValid (s : State) (t : Word) : Bool :=
  decide (0 ≤ t.toInt ∧ t.toInt ≤ s.codeLength)

/-- The offset that a valid target names (43_control_transfer.md R130). -/
def targetOffset (t : Word) : Nat := t.toInt.toNat

/-- Transfer control to an absolute target, InvalidJumpTarget if it is outside 0 to L
(43_control_transfer.md R130). -/
def State.jumpTo (s : State) (t : Word) : Except Fault State :=
  if s.targetValid t then .ok (s.setIp (targetOffset t)) else .error .invalidJumpTarget

/-- Do not transfer control: go on at `next`. The target of a jump that is not taken is checked only under
`VALIDATE_UNTAKEN_TARGET` (43_control_transfer.md R132, R133; log 9). -/
def State.fallThrough (s : State) (t : Word) (next : Nat) : Except Fault State :=
  if s.cfg.validateUntakenTarget && !s.targetValid t then .error .invalidJumpTarget
  else .ok (s.setIp next)

/-- A conditional transfer (43_control_transfer.md R132, R133). -/
def State.branch (s : State) (taken : Bool) (t : Word) (next : Nat) : Except Fault State :=
  if taken then s.jumpTo t else s.fallThrough t next

/-- The result of the overflowing division under `DIV_OVERFLOW` (42_alu.md R117). -/
def State.overflowQuotient (s : State) : Word :=
  match s.cfg.divOverflow with
  | .wrap => wrap32 (2 ^ 31)
  | .faultFreeAny => Config.freeWord s.draws

/-- Whether the division of `a` by `b` draws a free value (42_alu.md R117). -/
def State.drawsQuotient (s : State) (a b : Word) : Bool :=
  decide (s.cfg.divOverflow = .faultFreeAny) && divOverflows a b

/-- The count of free values after the division of `a` by `b`. -/
def State.countDraw (s : State) (a b : Word) : State :=
  if s.drawsQuotient a b then { s with draws := s.draws + 1 } else s

/-- A two-operand ALU instruction: pop b and a, then one result in a's place (42_alu.md R111, R114 to
R117). The one ALU condition is divide-by-zero (R118). -/
def State.binary (s : State) (f : AluFn) : Except Fault State := do
  let ops ← s.pop2
  match alu f s.overflowQuotient ops.a ops.b with
  | some v => return (ops.rest.replace v).setIp s.afterOp
  | none => .error .divisionByZero

end Sys2Proof.Machine
end

