-- ==== Sys2Proof/Machine/Arithmetic.lean ====
section
/-!
DEFINITION. ADD, SUB, MUL, DIV (42_alu.md R114 to R117).
-/
namespace Sys2Proof.Machine

/-- ADD (42_alu.md R114). -/
def execAdd (s : State) : Host.Outcome State Fault Refusal := s.commit (s.binary .add)

/-- SUB (42_alu.md R115). -/
def execSub (s : State) : Host.Outcome State Fault Refusal := s.commit (s.binary .sub)

/-- MUL (42_alu.md R116). -/
def execMul (s : State) : Host.Outcome State Fault Refusal := s.commit (s.binary .mul)

/-- DIV (42_alu.md R117). -/
def execDiv (s : State) : Host.Outcome State Fault Refusal :=
  s.commit do
    let ops ← s.pop2
    let t ← s.binary .div
    return t.countDraw ops.a ops.b

end Sys2Proof.Machine
end

