-- ==== Sys2Proof/Machine/Control.lean ====
section
/-!
DEFINITION. JMP, JZ, JNZ, CALL, RET (43_control_transfer.md R131 to R135).
-/
namespace Sys2Proof.Machine

/-- JMP target (43_control_transfer.md R131). -/
def execJmp (target : Word) (s : State) : Host.Outcome State Fault Refusal :=
  s.commit (s.jumpTo target)

/-- JZ target (43_control_transfer.md R132). -/
def execJz (target : Word) (s : State) : Host.Outcome State Fault Refusal :=
  s.commit do
    let (v, t) ← s.pop
    t.branch (zeroTest v) target s.afterOpi

/-- JNZ target (43_control_transfer.md R133). -/
def execJnz (target : Word) (s : State) : Host.Outcome State Fault Refusal :=
  s.commit do
    let (v, t) ← s.pop
    t.branch (!zeroTest v) target s.afterOpi

/-- CALL target: the frame is pushed first, then the target is checked (43_control_transfer.md R134;
log 8). -/
def execCall (target : Word) (s : State) : Host.Outcome State Fault Refusal :=
  s.commit do
    let t ← s.pushFrame { returnAddress := s.afterOpi, frameMarker := s.sp }
    t.jumpTo target

/-- RET: the return address is not checked again, the frame marker is dropped
(43_control_transfer.md R135). -/
def execRet (s : State) : Host.Outcome State Fault Refusal :=
  s.commit do
    let (f, t) ← s.popFrame
    return t.setIp f.returnAddress

end Sys2Proof.Machine
end

