-- ==== Sys2Proof/Machine/MemoryOps.lean ====
section
/-!
DEFINITION. LOAD and STORE (44_memory_ops.md R150 to R152).
-/
namespace Sys2Proof.Machine

/-- LOAD: the address is the top of stack as it stands (44_memory_ops.md R150, R152). -/
def execLoad (s : State) : Host.Outcome State Fault Refusal :=
  s.commit do
    let (addr, t) ← s.pop
    let v ← t.memRead addr
    return (t.replace v).setIp s.afterOp

/-- STORE: "address is popped first (topmost), then the value to store" (44_memory_ops.md R151). -/
def execStore (s : State) : Host.Outcome State Fault Refusal :=
  s.commit do
    let ops ← s.pop2
    let t ← ops.rest.memWrite ops.b ops.a
    return t.setIp s.afterOp

end Sys2Proof.Machine
end

