-- ==== Sys2Proof/Machine/Output.lean ====
section
/-!
DEFINITION. PRINT (45_output.md R160) and the text the host writes for a value (R161).
-/
namespace Sys2Proof.Machine

/-- PRINT (45_output.md R160). -/
def execPrint (s : State) : Host.Outcome State Fault Refusal :=
  s.commit do
    let (v, t) ← s.pop
    return (t.emit v).setIp s.afterOp

/-- The ASCII byte of a decimal digit (45_output.md R161). -/
def digitByte (d : Nat) : Byte := BitVec.ofNat 8 (0x30 + d)

/-- The digits of `n` in front of `tail`, at most `fuel` of them, most significant first. -/
def decimalFrom (fuel n : Nat) (tail : List Byte) : List Byte :=
  match fuel with
  | 0 => tail
  | fuel + 1 =>
    if n < 10 then digitByte n :: tail else decimalFrom fuel (n / 10) (digitByte (n % 10) :: tail)

/-- The shortest decimal numeral of a magnitude below 10^10, which every i32 has (45_output.md R161). -/
def decimal (n : Nat) : List Byte := decimalFrom 10 n []

/-- The signed decimal numeral of a value: a minus sign 0x2D and the numeral of -v for v < 0
(45_output.md R161; log 14). -/
def numeral (v : Word) : List Byte :=
  if v.toInt < 0 then 0x2D :: decimal v.toInt.natAbs else decimal v.toInt.natAbs

/-- One line: the numeral and one line feed 0x0A (45_output.md R161; log 14). -/
def renderLine (v : Word) : List Byte := numeral v ++ [0x0A]

/-- The text of a list of printed values (45_output.md R161). -/
def renderAll : List Word → List Byte
  | [] => []
  | v :: vs => renderLine v ++ renderAll vs

/-- The text the host has written for the run so far (45_output.md R161, 46_host_interface.md R174). -/
def State.renderedOutput (s : State) : List Byte := renderAll s.out

end Sys2Proof.Machine
end

