-- ==== Sys2Proof/Machine/StackOps.lean ====
section
/-!
DEFINITION. PUSH, POP, DUP, SWAP (41_stack_ops.md R100 to R103).
-/
namespace Sys2Proof.Machine

/-- PUSH imm (41_stack_ops.md R100). -/
def execPush (imm : Word) (s : State) : Host.Outcome State Fault Refusal :=
  s.commit do
    let t ← s.push imm
    return t.setIp s.afterOpi

/-- POP (41_stack_ops.md R101). -/
def execPop (s : State) : Host.Outcome State Fault Refusal :=
  s.commit do
    let (_, t) ← s.pop
    return t.setIp s.afterOp

/-- DUP (41_stack_ops.md R102). -/
def execDup (s : State) : Host.Outcome State Fault Refusal :=
  s.commit do
    let t ← s.dup
    return t.setIp s.afterOp

/-- SWAP (41_stack_ops.md R103). -/
def execSwap (s : State) : Host.Outcome State Fault Refusal :=
  s.commit do
    let t ← s.swap
    return t.setIp s.afterOp

end Sys2Proof.Machine
end

