-- ==== Sys2Proof/Machine/System.lean ====
section
/-!
DEFINITION. NOP and STOP (40_interpreter_loop.md R86, R87).
-/
namespace Sys2Proof.Machine

/-- NOP (40_interpreter_loop.md R86). -/
def execNop (s : State) : Host.Outcome State Fault Refusal := s.commit (.ok (s.setIp s.afterOp))

/-- STOP: `ip` is left just past the opcode byte (40_interpreter_loop.md R87). -/
def execStop (s : State) : Host.Outcome State Fault Refusal :=
  s.commit (.ok (s.setIp s.afterOp).haltNormal)

end Sys2Proof.Machine
end

