-- ==== Sys2Proof/Machine/Loop.lean ====
section
/-!
DEFINITION. The fetch-decode-execute loop (40_interpreter_loop.md R80 to R91): run entry, the fetch, one
iteration.
-/
namespace Sys2Proof.Machine

/-- run() entry (40_interpreter_loop.md R80). -/
def State.runEntry (s : State) : State := { s with running := true, ip := 0, status := .running }

/-- The fault that a failed decode raises (40_interpreter_loop.md R82, R88; 20_memory.md R41, R42). -/
def faultOfDecode : DecodeError → Fault
  | .noByte => .outOfBounds
  | .unknownOpcode _ => .unknownOpcode
  | .truncated _ => .outOfBounds

/-- Fetch and decode the instruction at `ip` (40_interpreter_loop.md R82). -/
def State.fetch (s : State) : Except Fault Instr :=
  match decode (s.code.drop s.ip) with
  | .ok (i, _) => .ok i
  | .error e => .error (faultOfDecode e)

/-- One loop iteration: the end-of-code halt (40_interpreter_loop.md R89), or one whole instruction, or one
fault (R82, R84). -/
def State.iterate (s : State) : Host.Outcome State Fault Refusal :=
  if s.codeLength ≤ s.ip then .next s.haltNormal
  else
    match s.fetch with
    | .ok i => exec i s
    | .error k => .next (s.raise k)

end Sys2Proof.Machine
end

