-- ==== Sys2Proof/Machine/HostPort.lean ====
section
/-!
DEFINITION. The host interface (46_host_interface.md): the operations construct, run and reset, the terminal
outcome, introspection, and the ports as views of the state.
-/
namespace Sys2Proof.Machine

/-! ### The three operations (46_host_interface.md R166 to R168) -/

/-- Whether the core is in status Running. -/
def State.isRunning (s : State) : Bool := decide (s.status = .running)

/-- construct(code_buffer), also the host's binding of another buffer (46_host_interface.md R166,
70_reset_and_hazards.md R211). Refused while Running (20_memory.md R40) and for sizes outside the bounds
of 00_scope.md R3 (log 15, log 19). R166 has it fix the capacities and the code; that it also sets the two
behavioural parameters of 00_scope.md R4 is a DESIGN CHOICE: log 29. -/
def State.serveConstruct (s : State) (cfg : Config) (code : List Byte) :
    Host.Outcome State Fault Refusal :=
  if s.isRunning then .refused .constructWhileRunning
  else if launchOk cfg code then .next (State.fresh cfg code s.draws)
  else .refused .launchOutOfBounds

/-- run(): run entry in status Ready, refused in any other (46_host_interface.md R167; log 13). -/
def State.serveRun (s : State) : Host.Outcome State Fault Refusal :=
  if s.status = .ready then .next { s.runEntry with request := none }
  else .refused .runNotReady

/-- reset: in status Ready or Halted, refused while Running (46_host_interface.md R168; log 13). -/
def State.serveReset (s : State) : Host.Outcome State Fault Refusal :=
  if s.isRunning then .refused .resetWhileRunning else .next s.hostReset

/-- The pending request is served, and is pending no more. -/
def State.serveRequest (s : State) (r : HostRequest) : Host.Outcome State Fault Refusal :=
  match r with
  | .construct cfg code => s.serveConstruct cfg code
  | .run => s.serveRun
  | .reset => s.serveReset

/-- What the core does with no request pending: an iteration while Running, nothing in status Ready or
Halted (40_interpreter_loop.md R81, 60_exceptions.md R196). -/
def State.proceed (s : State) : Host.Outcome State Fault Refusal :=
  match s.status with
  | .running => s.iterate
  | .ready => .next s
  | .halted _ => .next s

/-! ### What a run returns (46_host_interface.md R167) -/

/-- The terminal outcome, once there is one. -/
def State.outcome (s : State) : Option RunOutcome :=
  match s.status with
  | .halted o => some o
  | .ready => none
  | .running => none

/-! ### Introspection (46_host_interface.md R170, R174), honoured only when not Running (R171) -/

/-- The operand stack bottom first: `S[0]` to `S[sp-1]` (10_state.md R16). -/
def State.stackCells (s : State) : List Word := s.stack.reverse

/-- The call stack bottom first: `C[0]` to `C[csp-1]` (10_state.md R24). -/
def State.frames (s : State) : List Frame := s.calls.reverse

/-- `S[i]`, for 0 <= i < sp. -/
def State.readStack (s : State) (i : Nat) : Option Word :=
  if s.isRunning then none else s.stackCells[i]?

/-- `M[a]`, for 0 <= a < MEM_SIZE. -/
def State.readMemory (s : State) (a : Nat) : Option Word :=
  if s.isRunning then none else if a < s.cfg.memSize then some (s.mem.read a) else none

/-- The whole data memory `M[0 .. MEM_SIZE-1]`. -/
def State.memoryCells (s : State) : List Word := (List.range s.cfg.memSize).map s.mem.read

/-- The externally observable result of a run (46_host_interface.md R174), with `ip` and `csp`, which
R170 admits. -/
structure Observation where
  out : List Word
  outcome : RunOutcome
  stack : List Word
  memory : List Word
  ip : Nat
  csp : Nat
deriving DecidableEq, Repr

/-- What the host observes once the run has halted (46_host_interface.md R174). -/
def State.observe (s : State) : Option Observation :=
  match s.outcome with
  | none => none
  | some o =>
    some { out := s.out, outcome := o, stack := s.stackCells, memory := s.memoryCells,
           ip := s.ip, csp := s.csp }

/-! ### The ports of 46_host_interface.md R171 -/

/-- Fault codes 1 to 9 (60_exceptions.md R181; log 20). -/
def faultCode : Fault → BitVec 4
  | .stackOverflow => 1
  | .stackUnderflow => 2
  | .callStackOverflow => 3
  | .callStackUnderflow => 4
  | .divisionByZero => 5
  | .invalidMemoryAddress => 6
  | .invalidJumpTarget => 7
  | .unknownOpcode => 8
  | .outOfBounds => 9

/-- The port `state`: Ready, Running or Halted. -/
inductive PortState where
  | ready
  | running
  | halted
deriving DecidableEq, Repr

/-- The port `state`. -/
def State.portState (s : State) : PortState :=
  match s.status with
  | .ready => .ready
  | .running => .running
  | .halted _ => .halted

/-- The port `fault_code`: 0 unless the status is Halted(Fault(K)) (60_exceptions.md R181). -/
def State.portFaultCode (s : State) : BitVec 4 :=
  match s.status with
  | .halted (.fault k) => faultCode k
  | .halted .normal => 0
  | .ready => 0
  | .running => 0

/-- The port `outcome_fault`. -/
def State.portOutcomeFault (s : State) : Bool :=
  match s.status with
  | .halted (.fault _) => true
  | .halted .normal => false
  | .ready => false
  | .running => false

/-- The port `ip`, 32 bits. -/
def State.portIp (s : State) : BitVec 32 := BitVec.ofNat 32 s.ip

/-- The port `code_len`, 31 bits. -/
def State.portCodeLen (s : State) : BitVec 31 := BitVec.ofNat 31 s.codeLength

/-- The code read port: `code_byte` for `code_addr`; "the core never reads an address >= `code_len`". -/
def State.portCodeByte (s : State) (addr : BitVec 31) : Option Byte := s.code[addr.toNat]?

/-- The port `dbg_sel`. -/
inductive DebugSelect where
  | stack
  | memory
deriving DecidableEq, Repr

/-- The ports `dbg_sel`, `dbg_index` and `dbg_data`. -/
def State.portDebugData (s : State) (sel : DebugSelect) (index : BitVec 32) : Option Word :=
  match sel with
  | .stack => s.readStack index.toNat
  | .memory => s.readMemory index.toNat

/-- The port `dbg_sp`, honoured only when not Running. -/
def State.portDebugSp (s : State) : Option (BitVec 32) :=
  if s.isRunning then none else some (BitVec.ofNat 32 s.sp)

/-- The output port's transfer in the step from `s` to `t`: `out_valid` and `out_data`, one value for an
executed PRINT (46_host_interface.md R171, R172). -/
def outputTransfer (s t : State) : Option Word := t.out[s.out.length]?

end Sys2Proof.Machine
end

