-- ==== Sys2Proof/Machine/Step.lean ====
section
/-!
DEFINITION. One step of the machine, and the placing of an instruction where the next step fetches it.
-/
namespace Sys2Proof.Machine

/-- One step: the pending host request is served if there is one, and otherwise the core proceeds: one loop
iteration while Running (40_interpreter_loop.md R82), nothing in Ready or Halted (R81). Log 2, log 18. -/
def step (s : State) : Host.Outcome State Fault Refusal :=
  match s.request with
  | some r => s.serveRequest r
  | none => s.proceed

/-- `s` with the instruction stored at `ip` in the bound code (zero bytes before it if the code ends
earlier) and the core Running with no request pending, so that the very next step fetches and runs it.
It stands for the host's construct and run (log 24). -/
def State.withFetchWord (s : State) (nbits w : Nat) : State :=
  { s with
    code := s.code.take s.ip ++ List.replicate (s.ip - s.code.length) 0 ++ tableBytes nbits w ++
      s.code.drop (s.ip + maxInstrBytes)
    running := true
    status := .running
    request := none }

end Sys2Proof.Machine
end

