-- ==== Sys2Proof/Safety.lean ====
section
/-!
DEFINITION. The invariant of the SBVM core, and what counts as a safe run.
-/
namespace Sys2Proof.Machine

/-- The sizes are within the bounds of 00_scope.md R3. -/
abbrev State.SizesOk (s : State) : Prop := launchOk s.cfg s.code = true

/-- 0 <= ip <= L (10_state.md R10). -/
abbrev State.IpOk (s : State) : Prop := s.ip ≤ s.codeLength

/-- `running = true` exactly when `status = Running` (10_state.md R11). -/
abbrev State.FlagOk (s : State) : Prop := s.running = decide (s.status = .running)

/-- 0 <= sp <= STACK_CAP (10_state.md R17). -/
abbrev State.StackOk (s : State) : Prop := s.sp ≤ s.cfg.stackCap

/-- 0 <= csp <= CALL_CAP (10_state.md R25). -/
abbrev State.CallsOk (s : State) : Prop := s.csp ≤ s.cfg.callCap

/-- Every live frame holds 5 <= return address <= L (10_state.md R29) and a frame marker of at most
STACK_CAP (R24). -/
abbrev State.FramesOk (s : State) : Prop :=
  ∀ f ∈ s.calls, 5 ≤ f.returnAddress ∧ f.returnAddress ≤ s.codeLength ∧
    f.frameMarker ≤ s.cfg.stackCap

/-- The data memory is in canonical form and lists only cells 0 to MEM_SIZE - 1 (20_memory.md R44, R46). -/
abbrev State.MemOk (s : State) : Prop :=
  s.mem.wf = true ∧ ∀ c ∈ s.mem, c.1 < s.cfg.memSize

/-- Status Ready is the state that only construct and reset produce: every element holds its reset value
(40_interpreter_loop.md R80). -/
abbrev State.ReadyFresh (s : State) : Prop :=
  s.status = .ready → s.ip = 0 ∧ s.stack = [] ∧ s.calls = [] ∧ s.mem = [] ∧ s.out = []

/-- The invariant of the machine. -/
abbrev State.Inv (s : State) : Prop :=
  s.SizesOk ∧ s.IpOk ∧ s.FlagOk ∧ s.StackOk ∧ s.CallsOk ∧ s.FramesOk ∧ s.MemOk ∧ s.ReadyFresh

/-- The run has ended in a fault (60_exceptions.md R184). -/
def State.faulted (s : State) : Bool :=
  match s.outcome with
  | some (.fault _) => true
  | some .normal => false
  | none => false

/-- A run of `n` steps is safe: no step is refused and no state on the way has faulted. -/
def runsSafely (n : Nat) (s : State) : Bool :=
  match n with
  | 0 => !s.faulted
  | n + 1 =>
    match step s with
    | .next t => !s.faulted && runsSafely n t
    | .fault _ => false
    | .refused _ => false

end Sys2Proof.Machine
end

