-- ==== Sys2Proof/Certificates/Slice0/Obligations.lean ====
section
/-!
DEFINITION. The statements for the provers, each of the SBVM core as a machine. A fault is written as
`s.raise k`, the model's rendering of `raise K` (60_exceptions.md R184); `RaiseRecordsTheFaultAlone` says
what it writes.
That no host request is pending, a premise of many statements, is said of the model's own field `request`
(log 2).
-/

open Sys2Proof Sys2Proof.Machine

/-! ### Encoding -/

/-- Decoding an encoded instruction gives it back, whatever bytes follow (30_encoding.md R61 to R65, R69).
The opcode numbers are the spec's decision D1 (log 11). -/
def Obligations.DecodeOfEncodeIsTheInstruction : Prop :=
  ∀ (i : Instr) (rest : List Byte), i.wf = true → decode (encode i ++ rest) = .ok (i, rest)

/-- Bytes that decode are the encoding of what they decode to, followed by the bytes left over: no two
encodings of one instruction (30_encoding.md R64, R69).
The opcode numbers are the spec's decision D1 (log 11). -/
def Obligations.EncodeOfDecodeIsTheBytes : Prop :=
  ∀ (bytes rest : List Byte) (i : Instr), decode bytes = .ok (i, rest) → bytes = encode i ++ rest

/-- The decoder refuses exactly the opcode bytes 18 to 255, as unknown, and the five opcodes with an
immediate when fewer than four bytes follow, as truncated; any other decodes
(30_encoding.md R63, R66; 40_interpreter_loop.md R82).
Which byte values are opcodes, and which instruction each is, is a choice: R64 marks it as the spec's
decision D1, which log 11 follows. -/
def Obligations.DecodeRefusesUnknownAndTruncatedAlone : Prop :=
  ∀ (opcode : Byte) (rest : List Byte),
    (18 ≤ opcode.toNat → decode (opcode :: rest) = .error (.unknownOpcode opcode)) ∧
    (opcode ∈ [1#8, 9#8, 10#8, 11#8, 12#8] ∧ rest.length < 4 →
      decode (opcode :: rest) = .error (.truncated opcode)) ∧
    (opcode.toNat < 18 ∧ (opcode ∈ [1#8, 9#8, 10#8, 11#8, 12#8] → 4 ≤ rest.length) →
      ∃ i rest', decode (opcode :: rest) = .ok (i, rest') ∧ i.opcode = opcode)

/-- The length of an instruction is a function of its opcode byte alone: 5 if the byte is 1, 9, 10, 11 or
12, and 1 for any other defined value (30_encoding.md R60, R65).
Which byte values are opcodes, and which instruction each is, is a choice: R64 marks it as the spec's
decision D1, which log 11 follows. -/
def Obligations.LengthFollowsTheOpcodeByte : Prop :=
  ∀ (opcode : Byte) (rest rest' : List Byte) (i : Instr),
    decode (opcode :: rest) = .ok (i, rest') →
      rest'.length + (if opcode ∈ [1#8, 9#8, 10#8, 11#8, 12#8] then 5 else 1) = rest.length + 1

/-- A few words written out from the spec's encoding decode to their instructions (30_encoding.md R61,
R62, R64, R69).
The opcode values in these words are a choice: R64 prints only the 0 of NOP as the source's and marks 1
to 17 as the spec's decision D1, which log 11 follows. -/
def Obligations.WrittenOutWordsDecode : Prop :=
  decode [0x00] = .ok (.nop, []) ∧
  decode [0x01, 0x2A, 0x00, 0x00, 0x00] = .ok (.push 42, []) ∧
  decode [0x01, 0x00, 0x00, 0x00, 0x80, 0x11] = .ok (.push minI32, [0x11]) ∧
  decode [0x09, 0x06, 0x00, 0x00, 0x00, 0xFF, 0x11] = .ok (.jmp 6, [0xFF, 0x11]) ∧
  decode [0x0B, 0xFB, 0xFF, 0xFF, 0xFF] = .ok (.jnz (-5), []) ∧
  decode [0x05, 0x10, 0x11] = .ok (.add, [0x10, 0x11]) ∧
  decode [0x11] = .ok (.stop, [])

/-! ### The loop -/

/-- A step runs the decoded instruction: while Running with no host request pending, when the bytes at `ip`
decode to a well-formed instruction, the step is `exec` of it in the state as it stands, and nothing is
added around `exec` (40_interpreter_loop.md R82).
That one step is one whole iteration is the spec's decision D20 (log 26). -/
def Obligations.StepRunsTheDecodedInstruction : Prop :=
  ∀ (s : State) (i : Instr) (rest : List Byte),
    s.request = none → s.status = .running → decode (s.code.drop s.ip) = .ok (i, rest) → i.wf = true →
      step s = exec i s

/-- The end-of-code halt: at `ip >= L` the iteration clears `running`, halts Normal and writes nothing else
(40_interpreter_loop.md R89). That `running` is cleared is the spec's decision D9 (log 12). -/
def Obligations.EndOfCodeHaltsNormal : Prop :=
  ∀ s : State, s.request = none → s.status = .running → s.code.length ≤ s.ip →
    step s = .next { s with running := false, status := .halted .normal }

/-- An opcode byte 18 to 255 raises UnknownOpcode, and an opcode that needs an immediate with fewer than
four bytes after it inside the code raises OutOfBounds; either leaves `ip` at the opcode byte and every
container as it was (40_interpreter_loop.md R82, R88; 30_encoding.md R63). The state left is the spec's
decisions D2 and D9 (log 7, log 12).
Which byte values are opcodes, and which instruction each is, is a choice: R64 marks it as the spec's
decision D1, which log 11 follows. -/
def Obligations.UndecodableBytesRaiseTheirFault : Prop :=
  ∀ (s : State) (opcode : Byte) (rest : List Byte),
    s.request = none → s.status = .running → s.code.drop s.ip = opcode :: rest →
      (18 ≤ opcode.toNat →
        step s = .next { s with running := false, status := .halted (.fault .unknownOpcode) }) ∧
      (opcode ∈ [1#8, 9#8, 10#8, 11#8, 12#8] ∧ rest.length < 4 →
        step s = .next { s with running := false, status := .halted (.fault .outOfBounds) })

/-- The fetch is the one of the step function's pseudocode: the opcode by CodeRead8, then the test for an
unknown opcode, then the immediate by CodeRead32 just past it, whose OutOfBounds it raises
(40_interpreter_loop.md R82).
Which byte values are opcodes, and which instruction each is, is a choice: R64 marks it as the spec's
decision D1, which log 11 follows. -/
def Obligations.FetchReadsOpcodeThenImmediate : Prop :=
  ∀ (s : State) (opcode : Byte), s.codeRead8 s.ip = .ok opcode →
    (18 ≤ opcode.toNat → s.fetch = .error .unknownOpcode) ∧
    (opcode ∈ [1#8, 9#8, 10#8, 11#8, 12#8] →
      (∀ k, s.codeRead32 (s.ip + 1) = .error k → s.fetch = .error k) ∧
      (∀ v, s.codeRead32 (s.ip + 1) = .ok v →
        ∃ i, s.fetch = .ok i ∧ i.opcode = opcode ∧ i.immediate? = some v)) ∧
    (opcode.toNat < 18 ∧ opcode ∉ [1#8, 9#8, 10#8, 11#8, 12#8] →
      ∃ i, s.fetch = .ok i ∧ i.opcode = opcode ∧ i.immediate? = none)

/-- CodeRead8 and CodeRead32: OutOfBounds past the end, otherwise the byte, and the four bytes
little-endian read as a signed 32-bit integer; so a read of the opcode at `ip < L` never faults
(20_memory.md R41, R42). -/
def Obligations.CodeReadsAreBoundedAndLittleEndian : Prop :=
  ∀ (s : State) (a : Nat),
    (s.code.length < a + 1 → s.codeRead8 a = .error .outOfBounds) ∧
    (∀ h : a < s.code.length, s.codeRead8 a = .ok s.code[a]) ∧
    (s.code.length < a + 4 → s.codeRead32 a = .error .outOfBounds) ∧
    (∀ h : a + 3 < s.code.length, ∃ v, s.codeRead32 a = .ok v ∧
      v.toNat = s.code[a].toNat + 2 ^ 8 * s.code[a + 1].toNat + 2 ^ 16 * s.code[a + 2].toNat +
        2 ^ 24 * s.code[a + 3].toNat ∧
      v.toInt = Int.bmod v.toNat (2 ^ 32))

/-- While Running the core performs loop iterations; in Ready and Halted it performs none and changes no
state, for ever; once Halted, the outcome that run() returns is the payload (40_interpreter_loop.md R81).
That a step of an idle core is a next state equal to the old one is the model's choice (log 18). -/
def Obligations.IdleUnlessRunning : Prop :=
  ∀ s : State, s.request = none →
    (s.status = .running → step s = s.iterate) ∧
    (s.status ≠ .running → ∀ n, Host.Core.run Sys2Proof.core n s = .next s) ∧
    (∀ o, s.status = .halted o → s.outcome = some o)

/-- A JMP to its own offset runs for ever and changes nothing (40_interpreter_loop.md R90,
43_control_transfer.md R131). -/
def Obligations.JumpToItselfRunsForever : Prop :=
  ∀ (s : State) (target : Word) (rest : List Byte),
    s.request = none → s.status = .running → s.code.drop s.ip = encode (.jmp target) ++ rest →
      target.toInt = s.ip → ∀ n, Host.Core.run Sys2Proof.core n s = .next s

/-- With no host request pending every step answers a next state: no instruction, byte string or data ends
in a refusal or in an outcome `fault` (40_interpreter_loop.md R82, R85; 60_exceptions.md R184). That faults
are next states is the model's reading (log 1). -/
def Obligations.EveryStepOfTheCoreCompletes : Prop :=
  ∀ s : State, s.request = none → ∃ t, step s = .next t

/-! ### The host's operations -/

/-- run() in status Ready: `running <- true; ip <- 0; status <- Running`, the stacks, memory and output
untouched (40_interpreter_loop.md R80). That a request is a field which the step clears is the model's
choice (log 2). -/
def Obligations.RunRequestEntersTheLoop : Prop :=
  ∀ s : State, s.request = some .run → s.status = .ready →
    step s = .next { s with running := true, ip := 0, status := .running, request := none }

/-- reset in Ready or Halted puts every element at its reset value and keeps the code and the parameters;
every memory cell then reads 0 (70_reset_and_hazards.md R210, R211; 20_memory.md R45). The status, the
flag and the emptied log are the spec's decisions D11 and D23. The model's own are the count of draws, which
goes on (log 4), the request field, which the step clears (log 2), and
that reset keeps the two behavioural parameters too (log 29). -/
def Obligations.ResetRestoresEveryElement : Prop :=
  ∀ s : State, s.request = some .reset → s.status ≠ .running →
    ∃ t, step s = .next t ∧ t.ip = 0 ∧ t.running = false ∧ t.status = .ready ∧ t.stack = [] ∧
      t.calls = [] ∧ (∀ a, t.mem.read a = 0) ∧ t.out = [] ∧ t.cfg = s.cfg ∧ t.code = s.code ∧
      t.draws = s.draws ∧ t.request = none

/-- After reset the machine is indistinguishable from one freshly constructed with the same code and
parameters (70_reset_and_hazards.md R210, 46_host_interface.md R166).
The rules compare the elements of 10_state.md R31. That construct carries the two behavioural parameters
and reset keeps them is the model's choice, by log 29; that both keep the count of draws and that a
request is a field which the step clears are its choices too, by log 4 and log 2. That reset gives what
construct gives, Ready with an emptied log, is the spec's decisions D11 and D23. -/
def Obligations.ResetIsConstructWithTheSameCode : Prop :=
  ∀ s : State, s.status ≠ .running → launchOk s.cfg s.code = true →
    step { s with request := some .reset } =
      step { s with request := some (.construct s.cfg s.code) }

/-- What the spec tells a model to refuse: run() in any status but Ready, reset while Running, another
buffer while Running, sizes outside the bounds of the parameters; inside them construct is served
(46_host_interface.md R167, R168;
93_implementation_defined.md U5, U6, U11: decisions D10, D11, D19, D6, D7; log 13, log 15, log 19). That a
construct also sets the two behavioural parameters is the model's choice, by log 29, and so are that it keeps
the count of draws, by log 4, and that a request is a field which the step clears, by log 2. That the state it
gives is in status Ready with `running` false is the spec's decisions D23 and D9, its emptied log D11. -/
def Obligations.HostRequestsOutsideTheContractAreRefused : Prop :=
  ∀ s : State,
    (s.request = some .run ∧ s.status ≠ .ready → step s = .refused .runNotReady) ∧
    (s.request = some .reset ∧ s.status = .running → step s = .refused .resetWhileRunning) ∧
    (∀ c p, s.request = some (.construct c p) ∧ s.status = .running →
      step s = .refused .constructWhileRunning) ∧
    (∀ c p, s.request = some (.construct c p) ∧ s.status ≠ .running ∧
        ¬(c.stackCap ≤ 2147483647 ∧ c.callCap ≤ 2147483647 ∧ c.memSize ≤ 2147483648 ∧
          p.length ≤ 2147483647) →
      step s = .refused .launchOutOfBounds) ∧
    (∀ c p, s.request = some (.construct c p) ∧ s.status ≠ .running ∧
        c.stackCap ≤ 2147483647 ∧ c.callCap ≤ 2147483647 ∧ c.memSize ≤ 2147483648 ∧
          p.length ≤ 2147483647 →
      step s = .next (State.fresh c p s.draws))

/-- The host reads `S[i]` bottom first for i < sp and `M[a]` for a < MEM_SIZE, in Ready and Halted, and
nothing while Running (46_host_interface.md R170, R171). That a read answers nothing while Running is a choice,
the spec's decision D16 in R171, which log 21 follows: R170 and 70_reset_and_hazards.md R216 give only the
readable states and a duty of the host. -/
def Obligations.IntrospectionReadsStackAndMemory : Prop :=
  ∀ s : State,
    (s.status ≠ .running →
      (∀ (i : Nat) (h : i < s.stack.length), s.readStack i = some s.stack[s.stack.length - 1 - i]) ∧
      (∀ i, s.stack.length ≤ i → s.readStack i = none) ∧
      (∀ a, a < s.cfg.memSize → s.readMemory a = some (s.mem.read a)) ∧
      (∀ a, s.cfg.memSize ≤ a → s.readMemory a = none)) ∧
    (s.status = .running → (∀ i, s.readStack i = none) ∧ ∀ a, s.readMemory a = none)

/-- The port `fault_code` is 0 exactly when the status is not Halted(Fault), and otherwise the number of the
kind: 1 to 9 in the order of the table (60_exceptions.md R181: the spec's decision D12, log 20). -/
def Obligations.FaultCodePortTellsTheKind : Prop :=
  (∀ s : State, s.portFaultCode = 0 ↔ ∀ k, s.status ≠ .halted (.fault k)) ∧
  (∀ (s : State) (k : Fault), s.status = .halted (.fault k) → s.portFaultCode = faultCode k) ∧
  [Fault.stackOverflow, .stackUnderflow, .callStackOverflow, .callStackUnderflow, .divisionByZero,
    .invalidMemoryAddress, .invalidJumpTarget, .unknownOpcode, .outOfBounds].map faultCode =
      [1, 2, 3, 4, 5, 6, 7, 8, 9]

/-! ### The primitives of the controllers, the address decoder -/

/-- push, pop, peek, dup and swap over the cells `S[0 .. sp-1]`, bottom first (10_state.md R18 to R22). -/
def Obligations.OperandStackPrimitives : Prop :=
  ∀ (s : State),
    (∀ v, s.stack.length = s.cfg.stackCap → s.push v = .error .stackOverflow) ∧
    (∀ v, s.stack.length ≠ s.cfg.stackCap →
      ∃ t, s.push v = .ok t ∧ t.stackCells = s.stackCells ++ [v] ∧ t = { s with stack := t.stack }) ∧
    (s.stack.length = 0 →
      s.pop = .error .stackUnderflow ∧ s.peek = .error .stackUnderflow ∧
        s.dup = .error .stackUnderflow) ∧
    (∀ below v, s.stackCells = below ++ [v] →
      (∃ t, s.pop = .ok (v, t) ∧ t.stackCells = below ∧ t = { s with stack := t.stack }) ∧
      s.peek = .ok v ∧
      (s.stack.length = s.cfg.stackCap → s.dup = .error .stackOverflow) ∧
      (s.stack.length ≠ s.cfg.stackCap →
        ∃ t, s.dup = .ok t ∧ t.stackCells = below ++ [v, v] ∧ t = { s with stack := t.stack })) ∧
    (s.stack.length < 2 → s.swap = .error .stackUnderflow) ∧
    (∀ below b a, s.stackCells = below ++ [b, a] →
      ∃ t, s.swap = .ok t ∧ t.stackCells = below ++ [a, b] ∧ t = { s with stack := t.stack })

/-- push_frame and pop_frame over the frames `C[0 .. csp-1]`, bottom first (10_state.md R26, R27). -/
def Obligations.CallStackPrimitives : Prop :=
  ∀ (s : State),
    (∀ f, s.calls.length = s.cfg.callCap → s.pushFrame f = .error .callStackOverflow) ∧
    (∀ f, s.calls.length ≠ s.cfg.callCap →
      ∃ t, s.pushFrame f = .ok t ∧ t.frames = s.frames ++ [f] ∧ t = { s with calls := t.calls }) ∧
    (s.calls.length = 0 → s.popFrame = .error .callStackUnderflow) ∧
    (∀ below f, s.frames = below ++ [f] →
      ∃ t, s.popFrame = .ok (f, t) ∧ t.frames = below ∧ t = { s with calls := t.calls })

/-- The address decoder, MemRead and MemWrite on a canonical memory: an address outside 0 to MEM_SIZE - 1,
read as signed, raises InvalidMemoryAddress; a read gives the cell; a write replaces that cell and no
other (20_memory.md R46, R47, R48). -/
def Obligations.DataMemoryPrimitives : Prop :=
  ∀ (s : State) (a v : Word), s.mem.wf = true →
    (s.addrValid a = true ↔ 0 ≤ a.toInt ∧ a.toInt < s.cfg.memSize) ∧
    (¬(0 ≤ a.toInt ∧ a.toInt < s.cfg.memSize) →
      s.memRead a = .error .invalidMemoryAddress ∧ s.memWrite a v = .error .invalidMemoryAddress) ∧
    (0 ≤ a.toInt ∧ a.toInt < s.cfg.memSize →
      s.memRead a = .ok (s.mem.read a.toInt.toNat) ∧
      ∃ t, s.memWrite a v = .ok t ∧ t = { s with mem := t.mem } ∧ t.mem.read a.toInt.toNat = v ∧
        ∀ b : Nat, (b : Int) ≠ a.toInt → t.mem.read b = s.mem.read b)

/-- `raise K` writes the status and the running flag, and leaves `ip`, the stacks, the memory and the output
as they were (60_exceptions.md R184, R185). What it leaves and that it clears `running` are the spec's
decisions D2 and D9 (log 7, log 12). -/
def Obligations.RaiseRecordsTheFaultAlone : Prop :=
  ∀ (s : State) (k : Fault),
    s.raise k = { s with running := false, status := .halted (.fault k) } ∧
      (s.raise k).outcome = some (.fault k)

/-! ### What each instruction does -/

/-- NOP advances `ip` by 1 and changes nothing else (40_interpreter_loop.md R86). -/
def Obligations.NopOnlyAdvances : Prop :=
  ∀ s : State, exec .nop s = .next { s with ip := s.ip + 1 }

/-- STOP advances `ip` by 1, clears `running` and halts Normal, whatever the stacks hold
(40_interpreter_loop.md R87). -/
def Obligations.StopHaltsNormal : Prop :=
  ∀ s : State, exec .stop s =
    .next { s with ip := s.ip + 1, running := false, status := .halted .normal }

/-- PUSH puts its immediate on top and advances `ip` by 5; on a full stack it raises StackOverflow
(41_stack_ops.md R100). -/
def Obligations.PushPutsTheImmediateOnTop : Prop :=
  ∀ (s : State) (imm : Word),
    (s.stack.length ≠ s.cfg.stackCap →
      exec (.push imm) s = .next { s with stack := imm :: s.stack, ip := s.ip + 5 }) ∧
    (s.stack.length = s.cfg.stackCap → exec (.push imm) s = .next (s.raise .stackOverflow))

/-- POP discards the top of stack (41_stack_ops.md R101). -/
def Obligations.PopDiscardsTheTop : Prop :=
  ∀ (s : State) (v : Word) (rest : List Word), s.stack = v :: rest →
    exec .pop s = .next { s with stack := rest, ip := s.ip + 1 }

/-- DUP puts a copy of the top on top; on a full stack it raises StackOverflow (41_stack_ops.md R102). -/
def Obligations.DupCopiesTheTop : Prop :=
  ∀ (s : State) (v : Word) (rest : List Word), s.stack = v :: rest →
    (s.stack.length ≠ s.cfg.stackCap →
      exec .dup s = .next { s with stack := v :: v :: rest, ip := s.ip + 1 }) ∧
    (s.stack.length = s.cfg.stackCap → exec .dup s = .next (s.raise .stackOverflow))

/-- SWAP exchanges the top two entries (41_stack_ops.md R103). -/
def Obligations.SwapExchangesTheTopTwo : Prop :=
  ∀ (s : State) (a b : Word) (rest : List Word), s.stack = a :: b :: rest →
    exec .swap s = .next { s with stack := b :: a :: rest, ip := s.ip + 1 }

/-- ADD, SUB and MUL, b the top of stack and a under it: the result is the i32 congruent modulo 2^32 to the
exact sum, difference or product; nothing else changes but `ip`, so no overflow is detected, recorded or
signalled (42_alu.md R112). -/
def Obligations.AddSubMulWrapTheExactResult : Prop :=
  ∀ (s : State) (a b : Word) (rest : List Word), s.stack = b :: a :: rest →
    (exec .add s = .next { s with stack := BitVec.ofInt 32 (a.toInt + b.toInt) :: rest, ip := s.ip + 1 }) ∧
    (exec .sub s = .next { s with stack := BitVec.ofInt 32 (a.toInt - b.toInt) :: rest, ip := s.ip + 1 }) ∧
    (exec .mul s = .next { s with stack := BitVec.ofInt 32 (a.toInt * b.toInt) :: rest, ip := s.ip + 1 }) ∧
    (∀ n : Int, (2 : Int) ^ 32 ∣ (BitVec.ofInt 32 n).toInt - n)

/-- DIV: divisor 0 raises DivisionByZero whatever the dividend; min_i32 by -1 gives min_i32 under
`DIV_OVERFLOW = wrap` and the next free value under `fault_free_any`; every other division gives the
quotient truncated toward zero (42_alu.md R117). The overflow clause is the spec's decision D5
(log 10, log 4). -/
def Obligations.DivTruncatesOrRaises : Prop :=
  ∀ (s : State) (a b : Word) (rest : List Word), s.stack = b :: a :: rest →
    (b = 0 → exec .div s = .next (s.raise .divisionByZero)) ∧
    (a = minI32 ∧ b = -1 ∧ s.cfg.divOverflow = .wrap →
      exec .div s = .next { s with stack := minI32 :: rest, ip := s.ip + 1 }) ∧
    (a = minI32 ∧ b = -1 ∧ s.cfg.divOverflow = .faultFreeAny →
      exec .div s = .next
        { s with stack := Config.freeWord s.draws :: rest, ip := s.ip + 1, draws := s.draws + 1 }) ∧
    (b ≠ 0 ∧ ¬(a = minI32 ∧ b = -1) →
      exec .div s = .next
        { s with stack := BitVec.ofInt 32 (Int.tdiv a.toInt b.toInt) :: rest, ip := s.ip + 1 })

/-- JMP moves `ip` to a target in 0 to L and changes nothing else; any other target raises
InvalidJumpTarget (43_control_transfer.md R130, R131).
That any offset in 0 to L is a target, also one inside an instruction, is the spec's decision D14 in
30_encoding.md R65 (log 27). -/
def Obligations.JmpTransfersOrRaises : Prop :=
  ∀ (s : State) (target : Word),
    (0 ≤ target.toInt ∧ target.toInt ≤ s.code.length →
      exec (.jmp target) s = .next { s with ip := target.toInt.toNat }) ∧
    (¬(0 ≤ target.toInt ∧ target.toInt ≤ s.code.length) →
      exec (.jmp target) s = .next (s.raise .invalidJumpTarget))

/-- JZ pops a value and jumps if it is zero; a taken jump to a target outside 0 to L raises
InvalidJumpTarget, an untaken one only under `VALIDATE_UNTAKEN_TARGET` (43_control_transfer.md R132). The
untaken case is the spec's decision D4 (log 9). -/
def Obligations.JzPopsAndJumpsOnZero : Prop :=
  ∀ (s : State) (target v : Word) (rest : List Word), s.stack = v :: rest →
    (v = 0 ∧ 0 ≤ target.toInt ∧ target.toInt ≤ s.code.length →
      exec (.jz target) s = .next { s with stack := rest, ip := target.toInt.toNat }) ∧
    (v ≠ 0 ∧ (s.cfg.validateUntakenTarget = true → 0 ≤ target.toInt ∧ target.toInt ≤ s.code.length) →
      exec (.jz target) s = .next { s with stack := rest, ip := s.ip + 5 }) ∧
    ((v = 0 ∨ s.cfg.validateUntakenTarget = true) ∧
        ¬(0 ≤ target.toInt ∧ target.toInt ≤ s.code.length) →
      exec (.jz target) s = .next (s.raise .invalidJumpTarget))

/-- JNZ pops a value and jumps if it is not zero; its target is checked as JZ's is
(43_control_transfer.md R133). The untaken case is the spec's decision D4 (log 9). -/
def Obligations.JnzPopsAndJumpsOnNonzero : Prop :=
  ∀ (s : State) (target v : Word) (rest : List Word), s.stack = v :: rest →
    (v ≠ 0 ∧ 0 ≤ target.toInt ∧ target.toInt ≤ s.code.length →
      exec (.jnz target) s = .next { s with stack := rest, ip := target.toInt.toNat }) ∧
    (v = 0 ∧ (s.cfg.validateUntakenTarget = true → 0 ≤ target.toInt ∧ target.toInt ≤ s.code.length) →
      exec (.jnz target) s = .next { s with stack := rest, ip := s.ip + 5 }) ∧
    ((v ≠ 0 ∨ s.cfg.validateUntakenTarget = true) ∧
        ¬(0 ≤ target.toInt ∧ target.toInt ≤ s.code.length) →
      exec (.jnz target) s = .next (s.raise .invalidJumpTarget))

/-- CALL pushes the frame {p + 5, sp} and moves `ip` to the target; a full call stack raises
CallStackOverflow whatever the target, and otherwise a target outside 0 to L raises InvalidJumpTarget
(43_control_transfer.md R134). The order of the two faults is the spec's decision D3 (log 8). -/
def Obligations.CallSavesAFrameAndJumps : Prop :=
  ∀ (s : State) (target : Word),
    (s.calls.length ≠ s.cfg.callCap ∧ 0 ≤ target.toInt ∧ target.toInt ≤ s.code.length →
      exec (.call target) s = .next
        { s with
          calls := { returnAddress := s.ip + 5, frameMarker := s.stack.length } :: s.calls
          ip := target.toInt.toNat }) ∧
    (s.calls.length = s.cfg.callCap →
      exec (.call target) s = .next (s.raise .callStackOverflow)) ∧
    (s.calls.length ≠ s.cfg.callCap ∧ ¬(0 ≤ target.toInt ∧ target.toInt ≤ s.code.length) →
      exec (.call target) s = .next (s.raise .invalidJumpTarget))

/-- RET pops the innermost frame and moves `ip` to its return address; the operand stack is not touched and
the frame marker is dropped; with no active frame it raises CallStackUnderflow
(43_control_transfer.md R135).
That the marker is inert is the spec's decision D13 in 10_state.md R28 (log 16). -/
def Obligations.RetReturnsToTheSavedAddress : Prop :=
  ∀ s : State,
    (∀ (f : Frame) (rest : List Frame), s.calls = f :: rest →
      exec .ret s = .next { s with calls := rest, ip := f.returnAddress }) ∧
    (s.calls = [] → exec .ret s = .next (s.raise .callStackUnderflow))

/-- LOAD replaces the address on top by the cell it names; an address outside 0 to MEM_SIZE - 1 raises
InvalidMemoryAddress (44_memory_ops.md R150, 20_memory.md R46). -/
def Obligations.LoadReplacesTheAddressByItsCell : Prop :=
  ∀ (s : State) (addr : Word) (rest : List Word), s.stack = addr :: rest →
    (0 ≤ addr.toInt ∧ addr.toInt < s.cfg.memSize →
      exec .load s = .next { s with stack := s.mem.read addr.toInt.toNat :: rest, ip := s.ip + 1 }) ∧
    (¬(0 ≤ addr.toInt ∧ addr.toInt < s.cfg.memSize) →
      exec .load s = .next (s.raise .invalidMemoryAddress))

/-- STORE pops the address, then the value, and writes the cell; an address outside 0 to MEM_SIZE - 1 raises
InvalidMemoryAddress (44_memory_ops.md R151, 20_memory.md R46, R48). -/
def Obligations.StoreWritesTheCellItNames : Prop :=
  ∀ (s : State) (addr v : Word) (rest : List Word), s.stack = addr :: v :: rest →
    (0 ≤ addr.toInt ∧ addr.toInt < s.cfg.memSize →
      exec .store s = .next
        { s with stack := rest, mem := s.mem.write addr.toInt.toNat v, ip := s.ip + 1 }) ∧
    (¬(0 ≤ addr.toInt ∧ addr.toInt < s.cfg.memSize) →
      exec .store s = .next (s.raise .invalidMemoryAddress))

/-- PRINT pops the top of stack and appends it to the output log (45_output.md R160). -/
def Obligations.PrintAppendsTheTopToTheOutput : Prop :=
  ∀ (s : State) (v : Word) (rest : List Word), s.stack = v :: rest →
    exec .print s = .next { s with stack := rest, out := s.out ++ [v], ip := s.ip + 1 }

/-- Every instruction that finds fewer operands than it needs raises StackUnderflow, before any other test of
its own (60_exceptions.md R180, R186). The order is the spec's decision D3 (log 8). -/
def Obligations.MissingOperandsRaiseStackUnderflow : Prop :=
  ∀ s : State,
    (s.stack.length = 0 →
      ∀ i target, i ∈ [Instr.pop, .dup, .print, .load, .jz target, .jnz target] →
        exec i s = .next (s.raise .stackUnderflow)) ∧
    (s.stack.length < 2 →
      ∀ i, i ∈ [Instr.swap, .add, .sub, .mul, .div, .store] →
        exec i s = .next (s.raise .stackUnderflow))

/-! ### Laws of more than one instruction -/

/-- The quotient q of DIV satisfies |q * b| <= |a| < |q * b| + |b| and is zero or has the sign of a * b
(42_alu.md R117, 95_test_vectors.md section 2.3). -/
def Obligations.DivQuotientIsBounded : Prop :=
  ∀ (s : State) (a b : Word) (rest : List Word), s.stack = b :: a :: rest →
    b ≠ 0 → ¬(a = minI32 ∧ b = -1) →
      ∃ (q : Word) (t : State), exec .div s = .next t ∧ t.stack = q :: rest ∧
        (q.toInt * b.toInt).natAbs ≤ a.toInt.natAbs ∧
        a.toInt.natAbs < (q.toInt * b.toInt).natAbs + b.toInt.natAbs ∧
        (q.toInt = 0 ∨ 0 < q.toInt * (a.toInt * b.toInt))

/-- `ADD` and then `PUSH b; SUB` leaves a, for all a and b, on a stack within its bound: wraparound is a ring
(95_test_vectors.md section 2.3; 42_alu.md R114, R115). -/
def Obligations.SubUndoesAdd : Prop :=
  ∀ (s u v : State) (a b : Word) (rest : List Word), s.stack = b :: a :: rest →
    s.stack.length ≤ s.cfg.stackCap →
    exec .add s = .next u → exec (.push b) u = .next v →
      ∃ t, exec .sub v = .next t ∧ t.stack = a :: rest

/-- Read after write, on a canonical memory: STORE then LOAD at the same valid address gives the value stored,
and LOAD at any other
valid address gives what it gave before (20_memory.md R49).
R49 quotes the law for one address; its general form is the spec's own inference from R45, R47 and R48. -/
def Obligations.LoadAfterStoreGivesTheValue : Prop :=
  ∀ (s t u : State) (addr v : Word) (rest below : List Word) (other : Word),
    s.mem.wf = true → s.stack = addr :: v :: rest → 0 ≤ addr.toInt → addr.toInt < s.cfg.memSize →
    0 ≤ other.toInt → other.toInt < s.cfg.memSize →
    exec .store s = .next t → u.mem = t.mem → u.cfg = t.cfg → u.stack = other :: below →
      exec .load u = .next
        { u with
          stack := (if other = addr then v else s.mem.read other.toInt.toNat) :: below
          ip := u.ip + 1 }

/-- Once the call stack is again as CALL left it, RET restores exactly the offset after the CALL and the call
stack as it was before it, and leaves the operand stack as the called routine left it
(43_control_transfer.md R134, R135; 10_state.md R28).
That the marker is inert is the spec's decision D13 (log 16). -/
def Obligations.RetUndoesCall : Prop :=
  ∀ (s t u : State) (target : Word),
    s.calls.length ≠ s.cfg.callCap → 0 ≤ target.toInt → target.toInt ≤ s.code.length →
    exec (.call target) s = .next t → u.calls = t.calls →
      exec .ret u = .next { u with calls := s.calls, ip := s.ip + 5 }

/-- Function select by the opcode byte alone: where it selects a function, the instruction leaves that
function's result of its two operands, and raises DivisionByZero where the ALU reports it; it selects the
zero test for JZ and JNZ alone (42_alu.md R118: the ALU as a block is the spec's decision D16).
The quotient of min_i32 by -1 that the ALU is given is the spec's decision D5 (log 10, log 4). -/
def Obligations.FunctionSelectDrivesTheAlu : Prop :=
  (∀ (i : Instr) (f : AluFn) (s : State) (a b : Word) (rest : List Word),
    aluSelect i.opcode = .compute f → s.stack = b :: a :: rest →
      (∀ v, alu f s.overflowQuotient a b = some v →
        ∃ t, exec i s = .next t ∧ t.stack = v :: rest ∧ t.ip = s.ip + 1) ∧
      (alu f s.overflowQuotient a b = none → exec i s = .next (s.raise .divisionByZero))) ∧
  (∀ i : Instr, aluSelect i.opcode = .zeroTest ↔ ∃ x, i = .jz x ∨ i = .jnz x)

/-- The functions of 42_alu.md R120, which no opcode reaches: MOD is the remainder of truncating division,
with the sign of the dividend or zero and smaller than the divisor; the comparisons are signed and give 1 or
0; AND, OR and XOR act bit by bit. Their meanings are the spec's decision D15 (log 17). -/
def Obligations.UnreachableAluFunctions : Prop :=
  ∀ (q a b : Word),
    (b = 0 → alu .mod q a b = none) ∧
    (b ≠ 0 → ∃ r, alu .mod q a b = some r ∧ r.toInt = a.toInt - Int.tdiv a.toInt b.toInt * b.toInt ∧
      r.toInt.natAbs < b.toInt.natAbs ∧ 0 ≤ r.toInt * a.toInt) ∧
    alu .lt q a b = some (if a.toInt < b.toInt then 1 else 0) ∧
    alu .le q a b = some (if a.toInt ≤ b.toInt then 1 else 0) ∧
    alu .gt q a b = some (if b.toInt < a.toInt then 1 else 0) ∧
    alu .ge q a b = some (if b.toInt ≤ a.toInt then 1 else 0) ∧
    alu .eq q a b = some (if a = b then 1 else 0) ∧
    alu .ne q a b = some (if a = b then 0 else 1) ∧
    (∀ k, k < 32 → ∃ x y z, alu .and q a b = some x ∧ alu .or q a b = some y ∧ alu .xor q a b = some z ∧
      x.getLsbD k = (a.getLsbD k && b.getLsbD k) ∧ y.getLsbD k = (a.getLsbD k || b.getLsbD k) ∧
      z.getLsbD k = (a.getLsbD k ^^ b.getLsbD k))

/-- The text of a printed value: a minus sign 0x2D for a negative one, then decimal digits with no leading
zero, then one line feed 0x0A; the digits read back as the magnitude (45_output.md R161). The rendering is
the spec's decision D8 (log 14). -/
def Obligations.RenderedLineReadsBack : Prop :=
  ∀ v : Word, ∃ digits : List Byte,
    renderLine v = (if v.toInt < 0 then [0x2D#8] else []) ++ digits ++ [0x0A#8] ∧
    digits ≠ [] ∧ (∀ d ∈ digits, 0x30 ≤ d.toNat ∧ d.toNat ≤ 0x39) ∧
    (digits.head? = some 0x30#8 → digits = [0x30#8]) ∧
    digits.foldl (fun n d => 10 * n + (d.toNat - 0x30)) 0 = v.toInt.natAbs

/-! ### Frames -/

/-- Only STORE changes a cell of the data memory: after any other instruction every cell reads as before
(20_memory.md R44, 44_memory_ops.md R150, R151). -/
def Obligations.OnlyStoreChangesMemory : Prop :=
  ∀ (i : Instr) (s t : State), i ≠ .store → exec i s = .next t →
    ∀ a, t.mem.read a = s.mem.read a

/-- On a canonical memory STORE changes at most the one cell that its address operand, the top of stack, names:
every other cell
reads as before, that cell reads the value under the address, and a faulting STORE changes no cell
(44_memory_ops.md R151, 20_memory.md R48). -/
def Obligations.StoreChangesOneCell : Prop :=
  ∀ (s t : State), s.mem.wf = true → exec .store s = .next t →
    (∀ addr v rest, s.stack = addr :: v :: rest →
      (s.addrValid addr = true → t.mem.read (cellIndex addr) = v ∧
        ∀ a, a ≠ cellIndex addr → t.mem.read a = s.mem.read a) ∧
      (s.addrValid addr = false → ∀ a, t.mem.read a = s.mem.read a)) ∧
    (s.stack.length < 2 → ∀ a, t.mem.read a = s.mem.read a)

/-- How many entries an instruction reads off the operand stack (10_state.md R23). -/
def stackReads : Instr → Nat
  | .nop => 0
  | .push _ => 0
  | .pop => 1
  | .dup => 1
  | .swap => 2
  | .add => 2
  | .sub => 2
  | .mul => 2
  | .div => 2
  | .jmp _ => 0
  | .jz _ => 1
  | .jnz _ => 1
  | .call _ => 0
  | .ret => 0
  | .load => 1
  | .store => 2
  | .print => 1
  | .stop => 0

/-- How many entries an instruction leaves in their place (10_state.md R23). -/
def stackWrites : Instr → Nat
  | .nop => 0
  | .push _ => 1
  | .pop => 0
  | .dup => 2
  | .swap => 2
  | .add => 1
  | .sub => 1
  | .mul => 1
  | .div => 1
  | .jmp _ => 0
  | .jz _ => 0
  | .jnz _ => 0
  | .call _ => 0
  | .ret => 0
  | .load => 1
  | .store => 0
  | .print => 0
  | .stop => 0

/-- An instruction that does not fault replaces the entries it reads by those it writes and leaves every
entry below them untouched; one that faults leaves the stack alone (10_state.md R23,
40_interpreter_loop.md R84).
R23 is the spec's own inference from the instruction rules; that a fault keeps the operands is its
decision D2 (log 7). -/
def Obligations.StackChangesOnlyAtItsTop : Prop :=
  ∀ (i : Instr) (s t : State), exec i s = .next t →
    (∃ k, t = s.raise k) ∨
      (stackReads i ≤ s.stack.length ∧ stackWrites i ≤ t.stack.length ∧
        t.stack.drop (stackWrites i) = s.stack.drop (stackReads i))

/-- The rest of the frame: the code, the parameters and the pending request are never touched by an
instruction; the call stack only by CALL and RET; the output only by PRINT; the count of draws only by
DIV; `status` and `running` only by STOP and by a fault (10_state.md R11, R12, R24, R30; 20_memory.md R40).
The pending request and the count of draws are the model's own fields, which no rule of the spec knows:
the clauses on them are the model's choice, by log 2 and log 4. That a fault writes status and running
alone is the spec's decisions D2 and D9 (log 7, log 12). -/
def Obligations.EachElementHasItsOwnWriters : Prop :=
  ∀ (i : Instr) (s t : State), exec i s = .next t →
    t.cfg = s.cfg ∧ t.code = s.code ∧ t.request = s.request ∧
    ((∀ x, i ≠ .call x) → i ≠ .ret → t.calls = s.calls) ∧
    (i ≠ .print → t.out = s.out) ∧
    (i ≠ .div → t.draws = s.draws) ∧
    (i ≠ .stop → (t.status = s.status ∧ t.running = s.running) ∨ ∃ k, t = s.raise k)

/-- Where `ip` stands after an instruction: past it, and then it is no JMP, CALL or RET; or at its target, in 0
to L; or, after RET, at the saved return address of the innermost frame; an instruction that faults does
not write it (10_state.md R10).
That a fault leaves ip at the opcode byte is the spec's decision D2 (log 7). -/
def Obligations.InstructionPointerGoesNowhereElse : Prop :=
  ∀ (i : Instr) (s t : State), exec i s = .next t →
    (∃ k, t = s.raise k) ∨
      (t.ip = s.ip + i.length ∧ i ≠ .ret ∧ (∀ x, i ≠ .jmp x) ∧ ∀ x, i ≠ .call x) ∨
      (∃ x, i.target? = some x ∧ 0 ≤ x.toInt ∧ x.toInt ≤ s.code.length ∧ (t.ip : Int) = x.toInt) ∨
      (i = .ret ∧ ∃ f rest, s.calls = f :: rest ∧ t.ip = f.returnAddress)

/-- Faults are precise: an instruction that ends a running core in Halted(Fault(K)) has had no other effect
(60_exceptions.md R185, 40_interpreter_loop.md R84). This is the spec's decision D2 (log 7). -/
def Obligations.FaultsArePrecise : Prop :=
  ∀ (i : Instr) (s t : State) (k : Fault), s.status = .running → exec i s = .next t →
    t.status = .halted (.fault k) → t = s.raise k

/-- The fault kinds an instruction can raise itself, once it is decoded (60_exceptions.md R180, R186). -/
def faultsOf : Instr → List Fault
  | .nop => []
  | .push _ => [.stackOverflow]
  | .pop => [.stackUnderflow]
  | .dup => [.stackUnderflow, .stackOverflow]
  | .swap => [.stackUnderflow]
  | .add => [.stackUnderflow]
  | .sub => [.stackUnderflow]
  | .mul => [.stackUnderflow]
  | .div => [.stackUnderflow, .divisionByZero]
  | .jmp _ => [.invalidJumpTarget]
  | .jz _ => [.stackUnderflow, .invalidJumpTarget]
  | .jnz _ => [.stackUnderflow, .invalidJumpTarget]
  | .call _ => [.callStackOverflow, .invalidJumpTarget]
  | .ret => [.callStackUnderflow]
  | .load => [.stackUnderflow, .invalidMemoryAddress]
  | .store => [.stackUnderflow, .invalidMemoryAddress]
  | .print => [.stackUnderflow]
  | .stop => []

/-- No instruction raises a fault kind that the table does not give it (60_exceptions.md R180, R186). -/
def Obligations.InstructionsRaiseTheirOwnFaultsAlone : Prop :=
  ∀ (i : Instr) (s t : State) (k : Fault), s.status = .running → exec i s = .next t →
    t.status = .halted (.fault k) → k ∈ faultsOf i

/-- The output port carries one value for an executed PRINT, the value on top of the stack, and none for any
other instruction or for a PRINT that faults (45_output.md R160; 46_host_interface.md R171, R172: the port
is the spec's decision D16, its never stalling D8). -/
def Obligations.OutputPortCarriesThePrintedValue : Prop :=
  ∀ (i : Instr) (s t : State), exec i s = .next t →
    (outputTransfer s t = none ∧ t.out = s.out ∧ (i = .print → s.stack = [])) ∨
      (i = .print ∧ ∃ v rest, s.stack = v :: rest ∧ outputTransfer s t = some v ∧ t.out = s.out ++ [v])

/-! ### The whole machine -/

/-- Every step keeps the invariant, from every state that meets it, host requests included: sizes in their
bounds, 0 <= ip <= L, the running flag, the stack bounds, the frames, the canonical memory inside
MEM_SIZE, and that Ready is fresh (10_state.md R10, R11, R17, R24, R25, R29; 20_memory.md R44;
40_interpreter_loop.md R80).
The bounds of the sizes are the spec's decisions D6 and D7 (log 15), the running flag in a halted core
D9 (log 12), R29 its own inference, and the canonical form of the memory the model's choice (log 5). -/
def Obligations.StepKeepsTheInvariant : Prop :=
  ∀ s t : State, s.Inv → step s = .next t → t.Inv

/-- The state after reset meets the invariant (70_reset_and_hazards.md R210, R212). Its empty code is the
model's choice (log 3).
The running flag and the status after reset are the spec's decisions D9, D11 and D23. -/
def Obligations.ResetMeetsTheInvariant : Prop := State.reset.Inv

/-- The transitions of the run state machine, and there are no others: Ready to Running on run, Running to
Halted, any state but Running to Ready by reset or construct; otherwise the status stays
(10_state.md R12, 60_exceptions.md R188). That reset and construct never leave Running is a choice, the spec's
decisions D11 and D19, which log 13 and log 19 follow: R12 itself lists reset from any state. -/
def Obligations.StatusTransitionsAreThoseOfTheRunMachine : Prop :=
  ∀ s t : State, step s = .next t →
    t.status = s.status ∨
    (s.status = .ready ∧ t.status = .running ∧ s.request = some .run) ∨
    (s.status = .running ∧ (∃ o, t.status = .halted o) ∧ s.request = none) ∨
    (s.status ≠ .running ∧ t.status = .ready ∧
      (s.request = some .reset ∨ ∃ c p, s.request = some (.construct c p)))

/-- During a run the code and the parameters are constant and what has been emitted stays emitted: so it is
after any number of steps without a host request (20_memory.md R40, R57; 00_scope.md R3; 10_state.md R30).
That the code is constant is a premise by the spec's decision D19 (log 19); the pending request is the model's own
field (log 2). -/
def Obligations.RunsKeepCodeAndExtendOutput : Prop :=
  ∀ (n : Nat) (s t : State), s.request = none → Host.Core.run Sys2Proof.core n s = .next t →
    t.request = none ∧ t.cfg = s.cfg ∧ t.code = s.code ∧ ∃ more, t.out = s.out ++ more

/-- Running the bytes of instructions that hold no control transfer and no STOP and meet no fault executes them
one after another, each once: if folding `exec` over the instructions keeps the core Running, as many
steps from the offset where their encoding begins end in the folded state (40_interpreter_loop.md R81, R82, R91;
30_encoding.md R69). -/
def Obligations.StraightLineCodeRunsInOrder : Prop :=
  ∀ (is : List Instr) (before : List Instr) (s t : State),
    s.request = none → s.status = .running →
    s.ip = (encodeProgram before).length →
    (∃ tail, s.code = encodeProgram before ++ encodeProgram is ++ tail) →
    (∀ i ∈ is, i.target? = none ∧ i ≠ .ret ∧ i ≠ .stop) →
    is.foldl (fun o i => match o with
      | some u => match exec i u with
        | .next w => if w.status = .running then some w else none
        | .fault _ => none
        | .refused _ => none
      | none => none) (some s) = some t →
      Host.Core.run Sys2Proof.core is.length s = .next t
end

