-- ==== Sys2Proof/Laws/Alu.lean ====
section
/-!
SUPPORT. What the functions of the ALU compute, in the arithmetic of 32-bit patterns.
-/
namespace Sys2Proof.Machine

theorem zeroTest_iff {v : Word} : zeroTest v = true ↔ v = 0 := by simp [zeroTest]

theorem zeroTest_eq_false_iff {v : Word} : zeroTest v = false ↔ v ≠ 0 := by simp [zeroTest]

/-- `wrap32` of a word's own value is that word. -/
@[simp] theorem wrap32_toInt (v : Word) : wrap32 v.toInt = v := BitVec.ofInt_toInt

theorem wrap32_add (a b : Word) : wrap32 (a.toInt + b.toInt) = a + b := by
  simp [wrap32, BitVec.ofInt_add]

theorem wrap32_sub (a b : Word) : wrap32 (a.toInt - b.toInt) = a - b := by
  rw [Int.sub_eq_add_neg, wrap32, BitVec.ofInt_add, BitVec.ofInt_neg]
  simp [BitVec.sub_eq_add_neg]

theorem wrap32_mul (a b : Word) : wrap32 (a.toInt * b.toInt) = a * b := by
  simp [wrap32, BitVec.ofInt_mul]

theorem alu_add (q a b : Word) : alu .add q a b = some (a + b) := by
  simp [alu, divByZero, wrap32_add]

theorem alu_sub (q a b : Word) : alu .sub q a b = some (a - b) := by
  simp [alu, divByZero, wrap32_sub]

theorem alu_mul (q a b : Word) : alu .mul q a b = some (a * b) := by
  simp [alu, divByZero, wrap32_mul]

theorem alu_div_zero (q a : Word) : alu .div q a 0 = none := by simp [alu, divByZero, zeroTest]

theorem alu_div_overflow (q : Word) : alu .div q minI32 (-1) = some q := by
  simp [alu, divByZero, zeroTest, divOverflows]

theorem alu_div {q a b : Word} (hb : b ≠ 0) (h : divOverflows a b = false) :
    alu .div q a b = some (wrap32 (tdiv a.toInt b.toInt)) := by
  have hz : zeroTest b = false := zeroTest_eq_false_iff.mpr hb
  simp [alu, divByZero, hz, h]

/-- The one function an opcode reaches that can report a condition is DIV. -/
theorem alu_eq_none_iff {f : AluFn} {q a b : Word} : alu f q a b = none ↔ divByZero f b = true := by
  unfold alu
  split <;> simp_all

end Sys2Proof.Machine
end

