-- ==== Sys2Proof/Laws/Decode.lean ====
section
/-!
SUPPORT. The decoder and the encoder, piece by piece.
-/
namespace Sys2Proof

theorem takeImmediate_eq_some {bytes rest : List Byte} {v : Word} :
    takeImmediate bytes = some (v, rest) ↔
      ∃ b0 b1 b2 b3, bytes = b0 :: b1 :: b2 :: b3 :: rest ∧ v = wordOfBytes b0 b1 b2 b3 := by
  unfold takeImmediate
  split
  · rename_i c0 c1 c2 c3 r
    constructor
    · intro h
      cases h
      exact ⟨c0, c1, c2, c3, rfl, rfl⟩
    · rintro ⟨b0, b1, b2, b3, h, rfl⟩
      cases h
      rfl
  · rename_i h
    constructor
    · intro h'
      cases h'
    · rintro ⟨b0, b1, b2, b3, h', -⟩
      exact absurd h' (h b0 b1 b2 b3 rest)

theorem takeImmediate_eq_none {bytes : List Byte} : takeImmediate bytes = none ↔ bytes.length < 4 := by
  match bytes with
  | [] => simp [takeImmediate]
  | [_] => simp [takeImmediate]
  | [_, _] => simp [takeImmediate]
  | [_, _, _] => simp [takeImmediate]
  | _ :: _ :: _ :: _ :: _ => simp [takeImmediate]

theorem bytesOfWord_length (v : Word) : (bytesOfWord v).length = 4 := rfl

/-- The value of four bytes, least significant first. -/
theorem toNat_wordOfBytes (a b c d : Byte) :
    (wordOfBytes a b c d).toNat = a.toNat + 2 ^ 8 * b.toNat + 2 ^ 16 * c.toNat + 2 ^ 24 * d.toNat := by
  have ha := a.isLt
  have hb := b.isLt
  have hc := c.isLt
  have hd := d.isLt
  simp only [wordOfBytes, BitVec.toNat_append]
  rw [← Nat.shiftLeft_add_eq_or_of_lt hc, ← Nat.shiftLeft_add_eq_or_of_lt hb,
    ← Nat.shiftLeft_add_eq_or_of_lt ha]
  simp only [Nat.shiftLeft_eq]
  omega

/-- A word is put together again from its four bytes. -/
theorem wordOfBytes_extract (v : Word) :
    wordOfBytes (v.extractLsb' 0 8) (v.extractLsb' 8 8) (v.extractLsb' 16 8) (v.extractLsb' 24 8) = v := by
  apply BitVec.eq_of_toNat_eq
  rw [toNat_wordOfBytes]
  simp only [BitVec.extractLsb'_toNat, Nat.shiftRight_eq_div_pow]
  have := v.isLt
  omega

theorem takeImmediate_bytesOfWord (v : Word) (rest : List Byte) :
    takeImmediate (bytesOfWord v ++ rest) = some (v, rest) := by
  simp [bytesOfWord, takeImmediate, wordOfBytes_extract]

theorem encode_ne_nil (i : Instr) : encode i ≠ [] := by
  unfold encode
  split <;> simp

end Sys2Proof
end

