-- ==== Sys2Proof/Laws/Memory.lean ====
section
/-!
SUPPORT. The data memory: a write changes one cell and keeps the canonical form, and the canonical form
makes equal memories equal lists.
-/
namespace Sys2Proof.Machine

theorem Memory.wf_nil : Memory.wf [] = true := rfl

theorem Memory.wfFrom_cons {bound a : Nat} {v : Word} {m : Memory} :
    Memory.wfFrom bound ((a, v) :: m) = true ↔
      bound ≤ a ∧ v ≠ Memory.unlisted ∧ Memory.wfFrom (a + 1) m = true := by
  simp [Memory.wfFrom, and_assoc]

theorem Memory.wfFrom_mono {lo hi : Nat} {m : Memory} (h : lo ≤ hi) (hm : Memory.wfFrom hi m = true) :
    Memory.wfFrom lo m = true := by
  cases m with
  | nil => rfl
  | cons c m =>
    rw [Memory.wfFrom_cons] at hm ⊢
    exact ⟨h.trans hm.1, hm.2⟩

/-- A canonical memory lists no cell below its bound. -/
theorem Memory.bound_le_of_mem {bound : Nat} {m : Memory} (hm : Memory.wfFrom bound m = true)
    {c : Nat × Word} (hc : c ∈ m) : bound ≤ c.1 := by
  induction m generalizing bound with
  | nil => cases hc
  | cons d m ih =>
    rw [Memory.wfFrom_cons] at hm
    rcases List.mem_cons.mp hc with rfl | hc
    · exact hm.1
    · exact (Nat.le_succ_of_le hm.1).trans (ih hm.2.2 hc)

/-- Below its bound a canonical memory reads as unlisted. -/
theorem Memory.read_below {bound a : Nat} {m : Memory} (hm : Memory.wfFrom bound m = true)
    (ha : a < bound) : m.read a = Memory.unlisted := by
  induction m generalizing bound with
  | nil => rfl
  | cons d m ih =>
    rw [Memory.wfFrom_cons] at hm
    have hne : d.1 ≠ a := by omega
    have : Memory.read (d :: m) a = Memory.read m a := by simp [Memory.read, hne]
    rw [this]
    exact ih hm.2.2 (by omega)

theorem Memory.wfFrom_consCell {bound a : Nat} {v : Word} {m : Memory} (hb : bound ≤ a)
    (hm : Memory.wfFrom (a + 1) m = true) : Memory.wfFrom bound (Memory.cons a v m) = true := by
  unfold Memory.cons
  split
  · exact Memory.wfFrom_mono (Nat.le_succ_of_le hb) hm
  · exact Memory.wfFrom_cons.mpr ⟨hb, ‹_›, hm⟩

theorem Memory.wfFrom_write {bound a : Nat} {v : Word} {m : Memory} (hb : bound ≤ a)
    (hm : Memory.wfFrom bound m = true) : Memory.wfFrom bound (m.write a v) = true := by
  induction m generalizing bound with
  | nil => exact Memory.wfFrom_consCell hb rfl
  | cons d m ih =>
    obtain ⟨h1, h2, h3⟩ := Memory.wfFrom_cons.mp hm
    unfold Memory.write
    split_ifs with hlt heq
    · exact Memory.wfFrom_consCell hb (Memory.wfFrom_cons.mpr ⟨hlt, h2, h3⟩)
    · subst heq
      exact Memory.wfFrom_consCell hb h3
    · exact Memory.wfFrom_cons.mpr ⟨h1, h2, ih (by omega) h3⟩

/-- A write keeps the canonical form. -/
theorem Memory.wf_write {m : Memory} (a : Nat) (v : Word) (hm : m.wf = true) : (m.write a v).wf = true :=
  Memory.wfFrom_write (Nat.zero_le a) hm

/-- A write lists no cell but the one written and those that were listed. -/
theorem Memory.mem_write {m : Memory} {a : Nat} {v : Word} {c : Nat × Word} (hc : c ∈ m.write a v) :
    c.1 = a ∨ c ∈ m := by
  induction m with
  | nil =>
    simp only [Memory.write, Memory.cons] at hc
    split_ifs at hc
    · simp at hc
    · simp at hc; simp [hc]
  | cons d m ih =>
    simp only [Memory.write, Memory.cons] at hc
    split_ifs at hc <;> simp only [List.mem_cons] at hc ⊢
    · exact .inr hc
    · rcases hc with rfl | hc
      · exact .inl rfl
      · exact .inr hc
    · exact .inr (.inr hc)
    · rcases hc with rfl | hc
      · exact .inl rfl
      · exact .inr (.inr hc)
    · rcases hc with rfl | hc
      · exact .inr (.inl rfl)
      · rcases ih hc with h | h
        · exact .inl h
        · exact .inr (.inr h)

theorem Memory.read_consCell {a b bound : Nat} {v : Word} {m : Memory}
    (hm : Memory.wfFrom bound m = true) (ha : a < bound) :
    (Memory.cons a v m).read b = if b = a then v else m.read b := by
  unfold Memory.cons
  split_ifs with hv hb hb
  · rw [hb, hv, Memory.read_below hm ha]
  · rfl
  · simp [Memory.read, hb]
  · simp [Memory.read, Ne.symm hb]

/-- What every cell reads as after a write to a canonical memory: the written value at the written cell,
what it read before everywhere else. -/
theorem Memory.read_writeFrom {bound : Nat} {m : Memory} (a b : Nat) (v : Word)
    (hm : Memory.wfFrom bound m = true) : (m.write a v).read b = if b = a then v else m.read b := by
  induction m generalizing bound with
  | nil => exact Memory.read_consCell (bound := a + 1) rfl (Nat.lt_succ_self a)
  | cons d m ih =>
    obtain ⟨h1, h2, h3⟩ := Memory.wfFrom_cons.mp hm
    unfold Memory.write
    by_cases hlt : a < d.1
    · rw [if_pos hlt]
      exact Memory.read_consCell (Memory.wfFrom_cons.mpr ⟨hlt, h2, h3⟩) (Nat.lt_succ_self a)
    rw [if_neg hlt]
    by_cases heq : a = d.1
    · rw [if_pos heq, heq, Memory.read_consCell h3 (Nat.lt_succ_self _)]
      by_cases hb : b = d.1
      · rw [if_pos hb, if_pos hb]
      · rw [if_neg hb, if_neg hb]
        simp [Memory.read, Ne.symm hb]
    · rw [if_neg heq]
      by_cases hdb : d.1 = b
      · have hba : b ≠ a := by omega
        simp [Memory.read, hdb, hba]
      · simp only [Memory.read, if_neg hdb]
        exact ih h3

theorem Memory.read_write {m : Memory} (hm : m.wf = true) (a b : Nat) (v : Word) :
    (m.write a v).read b = if b = a then v else m.read b := Memory.read_writeFrom a b v hm

theorem Memory.read_write_same {m : Memory} (hm : m.wf = true) (a : Nat) (v : Word) :
    (m.write a v).read a = v := by rw [Memory.read_write hm, if_pos rfl]

theorem Memory.read_write_other {m : Memory} (hm : m.wf = true) {a b : Nat} (v : Word) (h : b ≠ a) :
    (m.write a v).read b = m.read b := by rw [Memory.read_write hm, if_neg h]

theorem Memory.read_listed {bound a : Nat} {v : Word} {m : Memory} :
    Memory.wfFrom bound ((a, v) :: m) = true → Memory.read ((a, v) :: m) a ≠ Memory.unlisted := by
  intro h
  simpa [Memory.read] using (Memory.wfFrom_cons.mp h).2.1

/-- Two canonical memories that read alike everywhere are the same list. -/
theorem Memory.extFrom {b1 b2 : Nat} {m1 m2 : Memory} (h1 : Memory.wfFrom b1 m1 = true)
    (h2 : Memory.wfFrom b2 m2 = true) (h : ∀ a, m1.read a = m2.read a) : m1 = m2 := by
  induction m1 generalizing b1 b2 m2 with
  | nil =>
    cases m2 with
    | nil => rfl
    | cons d m2 => exact absurd (h d.1).symm (Memory.read_listed h2)
  | cons c m1 ih =>
    cases m2 with
    | nil => exact absurd (h c.1) (Memory.read_listed h1)
    | cons d m2 =>
      obtain ⟨a, v⟩ := c
      obtain ⟨b, w⟩ := d
      obtain ⟨-, hv, hm1⟩ := Memory.wfFrom_cons.mp h1
      obtain ⟨-, hw, hm2⟩ := Memory.wfFrom_cons.mp h2
      have hab : a = b := by
        rcases Nat.lt_trichotomy a b with hlt | heq | hgt
        · have hr := h a
          rw [Memory.read_below (bound := b) (m := (b, w) :: m2)
            (Memory.wfFrom_cons.mpr ⟨le_refl b, hw, hm2⟩) hlt] at hr
          exact absurd hr (Memory.read_listed h1)
        · exact heq
        · have hr := h b
          rw [Memory.read_below (bound := a) (m := (a, v) :: m1)
            (Memory.wfFrom_cons.mpr ⟨le_refl a, hv, hm1⟩) hgt] at hr
          exact absurd hr.symm (Memory.read_listed h2)
      subst hab
      have hvw : v = w := by simpa [Memory.read] using h a
      subst hvw
      have : m1 = m2 := ih hm1 hm2 fun x => by
        by_cases hx : a = x
        · subst hx
          rw [Memory.read_below hm1 (Nat.lt_succ_self _), Memory.read_below hm2 (Nat.lt_succ_self _)]
        · simpa [Memory.read, hx] using h x
      rw [this]

theorem Memory.ext_read {m1 m2 : Memory} (h1 : m1.wf = true) (h2 : m2.wf = true)
    (h : ∀ a, m1.read a = m2.read a) : m1 = m2 := Memory.extFrom h1 h2 h

end Sys2Proof.Machine
end

