-- ==== Sys2Proof/Laws/State.lean ====
section
/-!
SUPPORT. The fields of every state update, each true by unfolding once.
-/
namespace Sys2Proof.Machine

theorem State.setIp_eq (s : State) (n : Nat) : s.setIp n = { s with ip := n } := rfl
@[simp] theorem State.setIp_cfg (s : State) (n : Nat) : (s.setIp n).cfg = s.cfg := rfl
@[simp] theorem State.setIp_code (s : State) (n : Nat) : (s.setIp n).code = s.code := rfl
@[simp] theorem State.setIp_ip (s : State) (n : Nat) : (s.setIp n).ip = n := rfl
@[simp] theorem State.setIp_running (s : State) (n : Nat) : (s.setIp n).running = s.running := rfl
@[simp] theorem State.setIp_status (s : State) (n : Nat) : (s.setIp n).status = s.status := rfl
@[simp] theorem State.setIp_stack (s : State) (n : Nat) : (s.setIp n).stack = s.stack := rfl
@[simp] theorem State.setIp_calls (s : State) (n : Nat) : (s.setIp n).calls = s.calls := rfl
@[simp] theorem State.setIp_mem (s : State) (n : Nat) : (s.setIp n).mem = s.mem := rfl
@[simp] theorem State.setIp_out (s : State) (n : Nat) : (s.setIp n).out = s.out := rfl
@[simp] theorem State.setIp_draws (s : State) (n : Nat) : (s.setIp n).draws = s.draws := rfl
@[simp] theorem State.setIp_request (s : State) (n : Nat) : (s.setIp n).request = s.request := rfl

theorem State.replace_eq (s : State) (v : Word) : s.replace v = { s with stack := v :: s.stack } := rfl
@[simp] theorem State.replace_cfg (s : State) (v : Word) : (s.replace v).cfg = s.cfg := rfl
@[simp] theorem State.replace_code (s : State) (v : Word) : (s.replace v).code = s.code := rfl
@[simp] theorem State.replace_ip (s : State) (v : Word) : (s.replace v).ip = s.ip := rfl
@[simp] theorem State.replace_running (s : State) (v : Word) : (s.replace v).running = s.running := rfl
@[simp] theorem State.replace_status (s : State) (v : Word) : (s.replace v).status = s.status := rfl
@[simp] theorem State.replace_stack (s : State) (v : Word) : (s.replace v).stack = v :: s.stack := rfl
@[simp] theorem State.replace_calls (s : State) (v : Word) : (s.replace v).calls = s.calls := rfl
@[simp] theorem State.replace_mem (s : State) (v : Word) : (s.replace v).mem = s.mem := rfl
@[simp] theorem State.replace_out (s : State) (v : Word) : (s.replace v).out = s.out := rfl
@[simp] theorem State.replace_draws (s : State) (v : Word) : (s.replace v).draws = s.draws := rfl
@[simp] theorem State.replace_request (s : State) (v : Word) : (s.replace v).request = s.request := rfl

theorem State.emit_eq (s : State) (v : Word) : s.emit v = { s with out := s.out ++ [v] } := rfl
@[simp] theorem State.emit_cfg (s : State) (v : Word) : (s.emit v).cfg = s.cfg := rfl
@[simp] theorem State.emit_code (s : State) (v : Word) : (s.emit v).code = s.code := rfl
@[simp] theorem State.emit_ip (s : State) (v : Word) : (s.emit v).ip = s.ip := rfl
@[simp] theorem State.emit_running (s : State) (v : Word) : (s.emit v).running = s.running := rfl
@[simp] theorem State.emit_status (s : State) (v : Word) : (s.emit v).status = s.status := rfl
@[simp] theorem State.emit_stack (s : State) (v : Word) : (s.emit v).stack = s.stack := rfl
@[simp] theorem State.emit_calls (s : State) (v : Word) : (s.emit v).calls = s.calls := rfl
@[simp] theorem State.emit_mem (s : State) (v : Word) : (s.emit v).mem = s.mem := rfl
@[simp] theorem State.emit_out (s : State) (v : Word) : (s.emit v).out = s.out ++ [v] := rfl
@[simp] theorem State.emit_draws (s : State) (v : Word) : (s.emit v).draws = s.draws := rfl
@[simp] theorem State.emit_request (s : State) (v : Word) : (s.emit v).request = s.request := rfl

@[simp] theorem State.haltNormal_cfg (s : State) : s.haltNormal.cfg = s.cfg := rfl
@[simp] theorem State.haltNormal_code (s : State) : s.haltNormal.code = s.code := rfl
@[simp] theorem State.haltNormal_ip (s : State) : s.haltNormal.ip = s.ip := rfl
@[simp] theorem State.haltNormal_running (s : State) : s.haltNormal.running = false := rfl
@[simp] theorem State.haltNormal_status (s : State) : s.haltNormal.status = .halted .normal := rfl
@[simp] theorem State.haltNormal_stack (s : State) : s.haltNormal.stack = s.stack := rfl
@[simp] theorem State.haltNormal_calls (s : State) : s.haltNormal.calls = s.calls := rfl
@[simp] theorem State.haltNormal_mem (s : State) : s.haltNormal.mem = s.mem := rfl
@[simp] theorem State.haltNormal_out (s : State) : s.haltNormal.out = s.out := rfl
@[simp] theorem State.haltNormal_draws (s : State) : s.haltNormal.draws = s.draws := rfl
@[simp] theorem State.haltNormal_request (s : State) : s.haltNormal.request = s.request := rfl

@[simp] theorem State.raise_cfg (s : State) (k : Fault) : (s.raise k).cfg = s.cfg := rfl
@[simp] theorem State.raise_code (s : State) (k : Fault) : (s.raise k).code = s.code := rfl
@[simp] theorem State.raise_ip (s : State) (k : Fault) : (s.raise k).ip = s.ip := rfl
@[simp] theorem State.raise_running (s : State) (k : Fault) : (s.raise k).running = false := rfl
@[simp] theorem State.raise_status (s : State) (k : Fault) : (s.raise k).status = .halted (.fault k) := rfl
@[simp] theorem State.raise_stack (s : State) (k : Fault) : (s.raise k).stack = s.stack := rfl
@[simp] theorem State.raise_calls (s : State) (k : Fault) : (s.raise k).calls = s.calls := rfl
@[simp] theorem State.raise_mem (s : State) (k : Fault) : (s.raise k).mem = s.mem := rfl
@[simp] theorem State.raise_out (s : State) (k : Fault) : (s.raise k).out = s.out := rfl
@[simp] theorem State.raise_draws (s : State) (k : Fault) : (s.raise k).draws = s.draws := rfl
@[simp] theorem State.raise_request (s : State) (k : Fault) : (s.raise k).request = s.request := rfl

@[simp] theorem State.runEntry_cfg (s : State) : s.runEntry.cfg = s.cfg := rfl
@[simp] theorem State.runEntry_code (s : State) : s.runEntry.code = s.code := rfl
@[simp] theorem State.runEntry_ip (s : State) : s.runEntry.ip = 0 := rfl
@[simp] theorem State.runEntry_running (s : State) : s.runEntry.running = true := rfl
@[simp] theorem State.runEntry_status (s : State) : s.runEntry.status = .running := rfl
@[simp] theorem State.runEntry_stack (s : State) : s.runEntry.stack = s.stack := rfl
@[simp] theorem State.runEntry_calls (s : State) : s.runEntry.calls = s.calls := rfl
@[simp] theorem State.runEntry_mem (s : State) : s.runEntry.mem = s.mem := rfl
@[simp] theorem State.runEntry_out (s : State) : s.runEntry.out = s.out := rfl
@[simp] theorem State.runEntry_draws (s : State) : s.runEntry.draws = s.draws := rfl
@[simp] theorem State.runEntry_request (s : State) : s.runEntry.request = s.request := rfl

@[simp] theorem State.fresh_cfg (c : Config) (p : List Byte) (n : Nat) : (State.fresh c p n).cfg = c := rfl
@[simp] theorem State.fresh_code (c : Config) (p : List Byte) (n : Nat) : (State.fresh c p n).code = p := rfl
@[simp] theorem State.fresh_ip (c : Config) (p : List Byte) (n : Nat) : (State.fresh c p n).ip = 0 := rfl
@[simp] theorem State.fresh_running (c : Config) (p : List Byte) (n : Nat) :
    (State.fresh c p n).running = false := rfl
@[simp] theorem State.fresh_status (c : Config) (p : List Byte) (n : Nat) :
    (State.fresh c p n).status = .ready := rfl
@[simp] theorem State.fresh_stack (c : Config) (p : List Byte) (n : Nat) : (State.fresh c p n).stack = [] := rfl
@[simp] theorem State.fresh_calls (c : Config) (p : List Byte) (n : Nat) : (State.fresh c p n).calls = [] := rfl
@[simp] theorem State.fresh_mem (c : Config) (p : List Byte) (n : Nat) : (State.fresh c p n).mem = [] := rfl
@[simp] theorem State.fresh_out (c : Config) (p : List Byte) (n : Nat) : (State.fresh c p n).out = [] := rfl
@[simp] theorem State.fresh_draws (c : Config) (p : List Byte) (n : Nat) : (State.fresh c p n).draws = n := rfl
@[simp] theorem State.fresh_request (c : Config) (p : List Byte) (n : Nat) :
    (State.fresh c p n).request = none := rfl

theorem State.hostReset_eq_fresh (s : State) : s.hostReset = State.fresh s.cfg s.code s.draws := rfl

/-- Counting a drawn value touches the count alone. -/
theorem State.countDraw_eq (s : State) (a b : Word) :
    s.countDraw a b = { s with draws := s.draws + if s.drawsQuotient a b then 1 else 0 } := by
  unfold State.countDraw
  split <;> rfl

@[simp] theorem State.countDraw_cfg (s : State) (a b : Word) : (s.countDraw a b).cfg = s.cfg := by
  rw [State.countDraw_eq]
@[simp] theorem State.countDraw_code (s : State) (a b : Word) : (s.countDraw a b).code = s.code := by
  rw [State.countDraw_eq]
@[simp] theorem State.countDraw_ip (s : State) (a b : Word) : (s.countDraw a b).ip = s.ip := by
  rw [State.countDraw_eq]
@[simp] theorem State.countDraw_running (s : State) (a b : Word) :
    (s.countDraw a b).running = s.running := by
  rw [State.countDraw_eq]
@[simp] theorem State.countDraw_status (s : State) (a b : Word) : (s.countDraw a b).status = s.status := by
  rw [State.countDraw_eq]
@[simp] theorem State.countDraw_stack (s : State) (a b : Word) : (s.countDraw a b).stack = s.stack := by
  rw [State.countDraw_eq]
@[simp] theorem State.countDraw_calls (s : State) (a b : Word) : (s.countDraw a b).calls = s.calls := by
  rw [State.countDraw_eq]
@[simp] theorem State.countDraw_mem (s : State) (a b : Word) : (s.countDraw a b).mem = s.mem := by
  rw [State.countDraw_eq]
@[simp] theorem State.countDraw_out (s : State) (a b : Word) : (s.countDraw a b).out = s.out := by
  rw [State.countDraw_eq]
@[simp] theorem State.countDraw_request (s : State) (a b : Word) :
    (s.countDraw a b).request = s.request := by
  rw [State.countDraw_eq]

@[simp] theorem State.afterOp_eq (s : State) : s.afterOp = s.ip + 1 := rfl
@[simp] theorem State.afterOpi_eq (s : State) : s.afterOpi = s.ip + 5 := rfl
@[simp] theorem State.sp_eq (s : State) : s.sp = s.stack.length := rfl
@[simp] theorem State.csp_eq (s : State) : s.csp = s.calls.length := rfl
@[simp] theorem State.codeLength_eq (s : State) : s.codeLength = s.code.length := rfl

end Sys2Proof.Machine
end

