-- ==== Sys2Proof/Laws/Ops.lean ====
section
/-!
SUPPORT. One lemma for each shared operation: everything it can answer.
-/
namespace Sys2Proof.Machine

/-! ### Sequencing and commit -/

theorem bind_eq_ok {α β : Type} {x : Except Fault α} {f : α → Except Fault β} {r : β} :
    (x >>= f) = .ok r ↔ ∃ v, x = .ok v ∧ f v = .ok r := by
  cases x with
  | error k => exact ⟨fun h => (by cases h), fun ⟨_, h, _⟩ => (by cases h)⟩
  | ok v => exact ⟨fun h => ⟨v, rfl, h⟩, fun ⟨_, h, h'⟩ => by cases h; exact h'⟩

theorem bind_eq_error {α β : Type} {x : Except Fault α} {f : α → Except Fault β} {k : Fault} :
    (x >>= f) = .error k ↔ x = .error k ∨ ∃ v, x = .ok v ∧ f v = .error k := by
  cases x with
  | error e =>
    exact ⟨fun h => .inl (by cases h; rfl), fun h => by
      rcases h with h | ⟨_, h, _⟩
      · cases h; rfl
      · cases h⟩
  | ok v =>
    exact ⟨fun h => .inr ⟨v, rfl, h⟩, fun h => by
      rcases h with h | ⟨_, h, h'⟩
      · cases h
      · cases h; exact h'⟩

@[simp] theorem ok_bind {α β : Type} (v : α) (f : α → Except Fault β) : (Except.ok v >>= f) = f v := rfl

@[simp] theorem error_bind {α β : Type} (k : Fault) (f : α → Except Fault β) :
    (Except.error k >>= f) = .error k := rfl

@[simp] theorem pure_eq_ok {α : Type} (v : α) : (pure v : Except Fault α) = .ok v := rfl

@[simp] theorem State.commit_ok (s t : State) : s.commit (.ok t) = .next t := rfl

@[simp] theorem State.commit_error (s : State) (k : Fault) : s.commit (.error k) = .next (s.raise k) := rfl

/-- An instruction commits all its writes or raises one fault on the state it began in. -/
theorem State.commit_cases {s t : State} {r : Except Fault State} (h : s.commit r = .next t) :
    r = .ok t ∨ ∃ k, r = .error k ∧ t = s.raise k := by
  cases r with
  | ok u => cases h; exact .inl rfl
  | error k => cases h; exact .inr ⟨k, rfl, rfl⟩

theorem State.commit_next (s : State) (r : Except Fault State) : ∃ t, s.commit r = .next t := by
  cases r <;> exact ⟨_, rfl⟩

/-! ### Operand stack -/

theorem State.push_eq_ok {s t : State} {v : Word} :
    s.push v = .ok t ↔ s.stack.length ≠ s.cfg.stackCap ∧ t = { s with stack := v :: s.stack } := by
  by_cases h : s.stack.length = s.cfg.stackCap <;> simp [State.push, State.stackFull, h, eq_comm]

theorem State.push_eq_error {s : State} {v : Word} {k : Fault} :
    s.push v = .error k ↔ s.stack.length = s.cfg.stackCap ∧ k = .stackOverflow := by
  by_cases h : s.stack.length = s.cfg.stackCap <;> simp [State.push, State.stackFull, h, eq_comm]

theorem State.pop_eq_ok {s t : State} {v : Word} :
    s.pop = .ok (v, t) ↔ ∃ rest, s.stack = v :: rest ∧ t = { s with stack := rest } := by
  unfold State.pop
  split <;> simp_all [eq_comm]

theorem State.pop_eq_error {s : State} {k : Fault} :
    s.pop = .error k ↔ s.stack = [] ∧ k = .stackUnderflow := by
  unfold State.pop
  split <;> simp_all [eq_comm]

theorem State.pop_nil {s : State} (h : s.stack = []) : s.pop = .error .stackUnderflow :=
  State.pop_eq_error.mpr ⟨h, rfl⟩

theorem State.pop_cons {s : State} {v : Word} {rest : List Word} (h : s.stack = v :: rest) :
    s.pop = .ok (v, { s with stack := rest }) := State.pop_eq_ok.mpr ⟨rest, h, rfl⟩

theorem State.peek_nil {s : State} (h : s.stack = []) : s.peek = .error .stackUnderflow := by
  simp [State.peek, h]

theorem State.peek_cons {s : State} {v : Word} {rest : List Word} (h : s.stack = v :: rest) :
    s.peek = .ok v := by
  simp [State.peek, h]

theorem State.pop2_cons {s : State} {a b : Word} {rest : List Word} (h : s.stack = b :: a :: rest) :
    s.pop2 = .ok { a := a, b := b, rest := { s with stack := rest } } := by
  simp [State.pop2, State.pop, h]

theorem State.pop2_short {s : State} (h : s.stack.length < 2) : s.pop2 = .error .stackUnderflow := by
  match hs : s.stack, h with
  | [], _ => simp [State.pop2, State.pop, hs]
  | [v], _ => simp [State.pop2, State.pop, hs]

theorem State.swap_cons {s : State} {a b : Word} {rest : List Word} (h : s.stack = a :: b :: rest) :
    s.swap = .ok { s with stack := b :: a :: rest } := by
  simp [State.swap, h]

theorem State.swap_short {s : State} (h : s.stack.length < 2) : s.swap = .error .stackUnderflow := by
  match hs : s.stack, h with
  | [], _ => simp [State.swap, hs]
  | [v], _ => simp [State.swap, hs]

theorem State.dup_nil {s : State} (h : s.stack = []) : s.dup = .error .stackUnderflow := by
  simp [State.dup, State.peek_nil h]

theorem State.dup_cons {s : State} {v : Word} {rest : List Word} (h : s.stack = v :: rest) :
    s.dup = s.push v := by
  simp [State.dup, State.peek_cons h]

/-! ### Call stack -/

theorem State.pushFrame_eq_ok {s t : State} {f : Frame} :
    s.pushFrame f = .ok t ↔ s.calls.length ≠ s.cfg.callCap ∧ t = { s with calls := f :: s.calls } := by
  by_cases h : s.calls.length = s.cfg.callCap <;> simp [State.pushFrame, State.callFull, h, eq_comm]

theorem State.pushFrame_eq_error {s : State} {f : Frame} {k : Fault} :
    s.pushFrame f = .error k ↔ s.calls.length = s.cfg.callCap ∧ k = .callStackOverflow := by
  by_cases h : s.calls.length = s.cfg.callCap <;> simp [State.pushFrame, State.callFull, h, eq_comm]

theorem State.popFrame_nil {s : State} (h : s.calls = []) : s.popFrame = .error .callStackUnderflow := by
  simp [State.popFrame, h]

theorem State.popFrame_cons {s : State} {f : Frame} {rest : List Frame} (h : s.calls = f :: rest) :
    s.popFrame = .ok (f, { s with calls := rest }) := by
  simp [State.popFrame, h]

/-! ### Memory -/

theorem State.addrValid_iff {s : State} {a : Word} :
    s.addrValid a = true ↔ 0 ≤ a.toInt ∧ a.toInt < s.cfg.memSize := by simp [State.addrValid]

theorem State.addrValid_eq_false {s : State} {a : Word}
    (h : ¬(0 ≤ a.toInt ∧ a.toInt < s.cfg.memSize)) : s.addrValid a = false := decide_eq_false h

/-- Whether an address is valid depends on the memory size alone. -/
theorem State.addrValid_congr {s u : State} (h : u.cfg = s.cfg) (a : Word) :
    u.addrValid a = s.addrValid a := by
  unfold State.addrValid
  rw [h]

theorem State.cellIndex_lt {s : State} {a : Word} (h : s.addrValid a = true) :
    cellIndex a < s.cfg.memSize := by
  rw [State.addrValid_iff] at h
  unfold cellIndex
  omega

theorem State.memRead_eq_ok {s : State} {a v : Word} :
    s.memRead a = .ok v ↔ s.addrValid a = true ∧ v = s.mem.read (cellIndex a) := by
  by_cases h : s.addrValid a = true <;> simp [State.memRead, h, eq_comm]

theorem State.memRead_eq_error {s : State} {a : Word} {k : Fault} :
    s.memRead a = .error k ↔ s.addrValid a = false ∧ k = .invalidMemoryAddress := by
  by_cases h : s.addrValid a = true <;> simp [State.memRead, h, eq_comm]

theorem State.memWrite_eq_ok {s t : State} {a v : Word} :
    s.memWrite a v = .ok t ↔
      s.addrValid a = true ∧ t = { s with mem := s.mem.write (cellIndex a) v } := by
  by_cases h : s.addrValid a = true <;> simp [State.memWrite, h, eq_comm]

theorem State.memWrite_eq_error {s : State} {a v : Word} {k : Fault} :
    s.memWrite a v = .error k ↔ s.addrValid a = false ∧ k = .invalidMemoryAddress := by
  by_cases h : s.addrValid a = true <;> simp [State.memWrite, h, eq_comm]

/-- A write that completes keeps the canonical form and lists no cell outside 0 to MEM_SIZE - 1. -/
theorem State.memWrite_keeps_memory {s t : State} {a v : Word} (h : s.memWrite a v = .ok t)
    (hwf : s.mem.wf = true) (hlt : ∀ c ∈ s.mem, c.1 < s.cfg.memSize) :
    t.mem.wf = true ∧ ∀ c ∈ t.mem, c.1 < t.cfg.memSize := by
  obtain ⟨hv, rfl⟩ := State.memWrite_eq_ok.mp h
  refine ⟨Memory.wf_write _ _ hwf, fun c hc => ?_⟩
  rcases Memory.mem_write hc with hc | hc
  · exact hc ▸ State.cellIndex_lt hv
  · exact hlt c hc

/-! ### Control transfer -/

theorem State.targetValid_iff {s : State} {t : Word} :
    s.targetValid t = true ↔ 0 ≤ t.toInt ∧ t.toInt ≤ s.code.length := by
  unfold State.targetValid State.codeLength
  exact decide_eq_true_iff

theorem State.targetValid_eq_false {s : State} {t : Word}
    (h : ¬(0 ≤ t.toInt ∧ t.toInt ≤ s.code.length)) : s.targetValid t = false := decide_eq_false h

/-- Whether a target is valid depends on the code alone. -/
theorem State.targetValid_congr {s u : State} (h : u.code = s.code) (t : Word) :
    u.targetValid t = s.targetValid t := by
  unfold State.targetValid State.codeLength
  rw [h]

theorem State.jumpTo_eq_ok {s u : State} {t : Word} :
    s.jumpTo t = .ok u ↔ s.targetValid t = true ∧ u = { s with ip := targetOffset t } := by
  by_cases h : s.targetValid t = true <;> simp [State.jumpTo, h, eq_comm, State.setIp]

theorem State.jumpTo_eq_error {s : State} {t : Word} {k : Fault} :
    s.jumpTo t = .error k ↔ s.targetValid t = false ∧ k = .invalidJumpTarget := by
  by_cases h : s.targetValid t = true <;> simp [State.jumpTo, h, eq_comm]

theorem State.targetOffset_le {s : State} {t : Word} (h : s.targetValid t = true) :
    targetOffset t ≤ s.code.length := by
  rw [State.targetValid_iff] at h
  unfold targetOffset
  omega

theorem State.fallThrough_eq_ok {s : State} {t : Word} {next : Nat}
    (h : s.cfg.validateUntakenTarget = true → s.targetValid t = true) :
    s.fallThrough t next = .ok { s with ip := next } := by
  unfold State.fallThrough
  cases hc : s.cfg.validateUntakenTarget
  · rfl
  · rw [h hc]; rfl

theorem State.fallThrough_eq_error {s : State} {t : Word} {next : Nat}
    (hc : s.cfg.validateUntakenTarget = true) (h : s.targetValid t = false) :
    s.fallThrough t next = .error .invalidJumpTarget := by
  unfold State.fallThrough
  rw [hc, h]; rfl

/-- A branch that completes moves `ip` and nothing else, to a valid target or to the next instruction. -/
theorem State.branch_eq_ok {s u : State} {taken : Bool} {t : Word} {next : Nat}
    (h : s.branch taken t next = .ok u) :
    (taken = true ∧ s.targetValid t = true ∧ u = { s with ip := targetOffset t }) ∨
      (taken = false ∧ u = { s with ip := next }) := by
  cases taken with
  | true => exact .inl ⟨rfl, State.jumpTo_eq_ok.mp h⟩
  | false =>
    refine .inr ⟨rfl, ?_⟩
    simp only [State.branch, State.fallThrough, Bool.false_eq_true, if_false] at h
    split at h
    · cases h
    · cases h; rfl

/-- A branch raises InvalidJumpTarget, for an invalid target that is taken or must be checked. -/
theorem State.branch_eq_error {s : State} {taken : Bool} {t : Word} {next : Nat} {k : Fault}
    (h : s.branch taken t next = .error k) :
    k = .invalidJumpTarget ∧ s.targetValid t = false ∧
      (taken = true ∨ s.cfg.validateUntakenTarget = true) := by
  cases taken with
  | true =>
    obtain ⟨h1, h2⟩ := State.jumpTo_eq_error.mp h
    exact ⟨h2, h1, .inl rfl⟩
  | false =>
    simp only [State.branch, State.fallThrough, Bool.false_eq_true, if_false] at h
    split at h
    · rename_i hc
      cases h
      simp at hc
      exact ⟨rfl, hc.2, .inr hc.1⟩
    · cases h

/-! ### Two-operand ALU instructions -/

theorem State.binary_cons {s : State} {f : AluFn} {a b v : Word} {rest : List Word}
    (h : s.stack = b :: a :: rest) (hv : alu f s.overflowQuotient a b = some v) :
    s.binary f = .ok { s with stack := v :: rest, ip := s.ip + 1 } := by
  simp [State.binary, State.pop2_cons h, hv, State.setIp, State.replace]

theorem State.binary_divByZero {s : State} {f : AluFn} {a b : Word} {rest : List Word}
    (h : s.stack = b :: a :: rest) (hv : alu f s.overflowQuotient a b = none) :
    s.binary f = .error .divisionByZero := by
  simp [State.binary, State.pop2_cons h, hv]

theorem State.binary_short {s : State} {f : AluFn} (h : s.stack.length < 2) :
    s.binary f = .error .stackUnderflow := by
  simp [State.binary, State.pop2_short h]

/-- A two-operand instruction that completes had two operands and a result. -/
theorem State.binary_eq_ok {s t : State} {f : AluFn} (h : s.binary f = .ok t) :
    ∃ a b v rest, s.stack = b :: a :: rest ∧ alu f s.overflowQuotient a b = some v ∧
      t = { s with stack := v :: rest, ip := s.ip + 1 } := by
  match hs : s.stack with
  | [] => rw [State.binary_short (by simp [hs])] at h; cases h
  | [_] => rw [State.binary_short (by simp [hs])] at h; cases h
  | b :: a :: rest =>
    cases hv : alu f s.overflowQuotient a b with
    | none => rw [State.binary_divByZero hs hv] at h; cases h
    | some v =>
      rw [State.binary_cons hs hv] at h
      cases h
      exact ⟨a, b, v, rest, rfl, hv, rfl⟩

end Sys2Proof.Machine
end

