-- ==== Sys2Proof/Laws/PerInstr.lean ====
section
/-!
SUPPORT. The family EncodingShape: an encoded instruction begins with its opcode byte, and is as long as
that byte alone says, 1 byte or 5 (30_encoding.md R60, R65).
-/
namespace Sys2Proof.Laws.EncodingShape

/-- An encoding begins with the opcode byte and has the length that this byte gives. -/
def Statement (i : Instr) : Prop :=
  (encode i).head? = some i.opcode ∧ (encode i).length = lengthOfOpcode i.opcode ∧
    (lengthOfOpcode i.opcode = 1 ∨ lengthOfOpcode i.opcode = 5)

/-- The shape of an encoding without an immediate. -/
theorem of_none {i : Instr} (h : i.immediate? = none) (hl : lengthOfOpcode i.opcode = 1) : Statement i := by
  have he : encode i = [i.opcode] := by simp only [encode, h]
  exact ⟨by rw [he, List.head?_cons], by rw [he, hl, List.length_singleton], .inl hl⟩

/-- The shape of an encoding with an immediate. -/
theorem of_some {i : Instr} {v : Word} (h : i.immediate? = some v) (hl : lengthOfOpcode i.opcode = 5) :
    Statement i := by
  have he : encode i = i.opcode :: bytesOfWord v := by simp only [encode, h]
  exact ⟨by rw [he, List.head?_cons], by rw [he, hl, List.length_cons, bytesOfWord_length], .inr hl⟩

theorem nop : Statement .nop := of_none rfl rfl
theorem push (imm : Word) : Statement (.push imm) := of_some rfl rfl
theorem pop : Statement .pop := of_none rfl rfl
theorem dup : Statement .dup := of_none rfl rfl
theorem swap : Statement .swap := of_none rfl rfl
theorem add : Statement .add := of_none rfl rfl
theorem sub : Statement .sub := of_none rfl rfl
theorem mul : Statement .mul := of_none rfl rfl
theorem div : Statement .div := of_none rfl rfl
theorem jmp (target : Word) : Statement (.jmp target) := of_some rfl rfl
theorem jz (target : Word) : Statement (.jz target) := of_some rfl rfl
theorem jnz (target : Word) : Statement (.jnz target) := of_some rfl rfl
theorem call (target : Word) : Statement (.call target) := of_some rfl rfl
theorem ret : Statement .ret := of_none rfl rfl
theorem load : Statement .load := of_none rfl rfl
theorem store : Statement .store := of_none rfl rfl
theorem print : Statement .print := of_none rfl rfl
theorem stop : Statement .stop := of_none rfl rfl

end Sys2Proof.Laws.EncodingShape
end

