-- ==== Sys2Proof/Laws/Step.lean ====
section
/-!
SUPPORT. One inversion lemma for the iteration, for the service of a request, and for the step: everything
each can answer.
-/
namespace Sys2Proof.Machine

theorem State.fetch_of_decode {s : State} {i : Instr} {rest : List Byte}
    (h : decode (s.code.drop s.ip) = .ok (i, rest)) : s.fetch = .ok i := by
  unfold State.fetch
  rw [h]

theorem State.fetch_of_error {s : State} {e : DecodeError} (h : decode (s.code.drop s.ip) = .error e) :
    s.fetch = .error (faultOfDecode e) := by
  unfold State.fetch
  rw [h]

/-- What decodes at `ip` lies inside the code. -/
theorem State.ip_lt_of_decode {s : State} {i : Instr} {rest : List Byte}
    (h : decode (s.code.drop s.ip) = .ok (i, rest)) : s.ip < s.code.length := by
  by_contra hc
  rw [List.drop_eq_nil_of_le (Nat.le_of_not_lt hc)] at h
  cases h

/-- An iteration is the end-of-code halt, one whole instruction, or one fault of the fetch. -/
theorem State.iterate_cases {s t : State} (h : s.iterate = .next t) :
    (s.code.length ≤ s.ip ∧ t = s.haltNormal) ∨
      (∃ i rest, decode (s.code.drop s.ip) = .ok (i, rest) ∧ exec i s = .next t) ∨
      (∃ e, decode (s.code.drop s.ip) = .error e ∧ t = s.raise (faultOfDecode e)) := by
  unfold State.iterate at h
  split at h
  · cases h
    exact .inl ⟨‹_›, rfl⟩
  · cases hd : decode (s.code.drop s.ip) with
    | ok p =>
      obtain ⟨i, rest⟩ := p
      rw [State.fetch_of_decode hd] at h
      exact .inr (.inl ⟨i, rest, rfl, h⟩)
    | error e =>
      rw [State.fetch_of_error hd] at h
      cases h
      exact .inr (.inr ⟨e, rfl, rfl⟩)

/-- A request that is served constructs, enters the loop, or resets; never while Running. -/
theorem State.serveRequest_cases {s t : State} {r : HostRequest} (h : s.serveRequest r = .next t) :
    (∃ c p, r = .construct c p ∧ s.status ≠ .running ∧ launchOk c p = true ∧
        t = State.fresh c p s.draws) ∨
      (r = .run ∧ s.status = .ready ∧ t = { s.runEntry with request := none }) ∨
      (r = .reset ∧ s.status ≠ .running ∧ t = s.hostReset) := by
  cases r with
  | construct c p =>
    simp only [State.serveRequest, State.serveConstruct] at h
    split_ifs at h with h1 h2
    cases h
    exact .inl ⟨c, p, rfl, by simpa [State.isRunning] using h1, h2, rfl⟩
  | run =>
    simp only [State.serveRequest, State.serveRun] at h
    split_ifs at h with h1
    cases h
    exact .inr (.inl ⟨rfl, h1, rfl⟩)
  | reset =>
    simp only [State.serveRequest, State.serveReset] at h
    split_ifs at h with h1
    cases h
    exact .inr (.inr ⟨rfl, by simpa [State.isRunning] using h1, rfl⟩)

/-- A step serves the pending request, iterates, or leaves an idle core as it is. -/
theorem step_cases {s t : State} (h : step s = .next t) :
    (∃ r, s.request = some r ∧ s.serveRequest r = .next t) ∨
      (s.request = none ∧ s.status = .running ∧ s.iterate = .next t) ∨
      (s.request = none ∧ s.status ≠ .running ∧ t = s) := by
  unfold step at h
  split at h
  · exact .inl ⟨_, ‹_›, h⟩
  · unfold State.proceed at h
    split at h
    · exact .inr (.inl ⟨‹_›, ‹_›, h⟩)
    · cases h
      exact .inr (.inr ⟨‹_›, by simp [*], rfl⟩)
    · cases h
      exact .inr (.inr ⟨‹_›, by simp [*], rfl⟩)

end Sys2Proof.Machine
end

