-- ==== Sys2Proof/Tests/Slice0.lean ====
section
/-!
SUPPORT. Tests. Expected results come from the worked examples and vectors of 95_test_vectors.md or by hand from
the rule named; the witnesses show that the hypotheses of each obligation can be met together, clause by clause.
-/
namespace Sys2Proof.Tests
open Sys2Proof.Machine

/-- A running core in the default configuration, at offset 0 of `code`. -/
def running (code : List Byte) (stack : List Word) : State :=
  { (State.fresh Config.standard code 0).runEntry with stack := stack }

/-- A running core whose stacks hold at most `cap` entries and whose memory has 4 cells. -/
def tight (cap : Nat) (code : List Byte) (stack : List Word) : State :=
  { running code stack with
    cfg := { Config.standard with stackCap := cap, callCap := cap, memSize := 4 } }

/-- The next state of an outcome. -/
def after : Host.Outcome State Fault Refusal → Option State
  | .next t => some t
  | .fault _ => none
  | .refused _ => none

/-- The operand stack, the instruction pointer and the status after an outcome. -/
def view (o : Host.Outcome State Fault Refusal) : Option (List Word × Nat × Status) :=
  (after o).map fun t => (t.stack, t.ip, t.status)

/-! ### WellFormed refuses ill-formed terms (00_scope.md R3, 43_control_transfer.md R130) -/

theorem test_wf_stackCap_refused : { Config.standard with stackCap := 2147483648 }.wf = false := by decide
theorem test_wf_callCap_refused : { Config.standard with callCap := 2147483648 }.wf = false := by decide
theorem test_wf_memSize_refused : { Config.standard with memSize := 2147483649 }.wf = false := by decide
theorem test_wf_bounds_admitted :
    (Config.mk 2147483647 2147483647 2147483648 true .faultFreeAny).wf = true ∧
      (Config.mk 0 0 0 false .wrap).wf = true := by decide
theorem test_launch_refused : launchOk { Config.standard with memSize := 2147483649 } [0x11] = false := by
  decide
theorem test_target_past_end_refused : (Instr.jmp 6).targetInRange 5 = false := by decide
theorem test_target_negative_refused : (Instr.call (-1)).targetInRange 5 = false := by decide
theorem test_target_end_admitted : (Instr.jz 5).targetInRange 5 = true := by decide

/-! ### Decoding, one word written out for each constructor (30_encoding.md R62, R64) -/

theorem test_decode_nop : decode [0x00, 0x11] = .ok (.nop, [0x11]) := by decide
theorem test_decode_push : decode [0x01, 0x2A, 0x00, 0x00, 0x00] = .ok (.push 42, []) := by decide
theorem test_decode_pop : decode [0x02] = .ok (.pop, []) := by decide
theorem test_decode_dup : decode [0x03] = .ok (.dup, []) := by decide
theorem test_decode_swap : decode [0x04] = .ok (.swap, []) := by decide
theorem test_decode_add : decode [0x05] = .ok (.add, []) := by decide
theorem test_decode_sub : decode [0x06] = .ok (.sub, []) := by decide
theorem test_decode_mul : decode [0x07] = .ok (.mul, []) := by decide
theorem test_decode_div : decode [0x08] = .ok (.div, []) := by decide
theorem test_decode_jmp : decode [0x09, 0x01, 0x02, 0x03, 0x04] = .ok (.jmp 0x04030201, []) := by decide
theorem test_decode_jz : decode [0x0A, 0x10, 0x00, 0x00, 0x00] = .ok (.jz 16, []) := by decide
theorem test_decode_jnz : decode [0x0B, 0xFB, 0xFF, 0xFF, 0xFF] = .ok (.jnz (-5), []) := by decide
theorem test_decode_call : decode [0x0C, 0x00, 0x01, 0x00, 0x00] = .ok (.call 256, []) := by decide
theorem test_decode_ret : decode [0x0D] = .ok (.ret, []) := by decide
theorem test_decode_load : decode [0x0E] = .ok (.load, []) := by decide
theorem test_decode_store : decode [0x0F] = .ok (.store, []) := by decide
theorem test_decode_print : decode [0x10] = .ok (.print, []) := by decide
theorem test_decode_stop : decode [0x11] = .ok (.stop, []) := by decide
theorem test_decode_unknown : decode [0x12, 0x11] = .error (.unknownOpcode 0x12) ∧
    decode [0xFF] = .error (.unknownOpcode 0xFF) := by decide
theorem test_decode_truncated : decode [0x01, 0x05, 0x00, 0x00] = .error (.truncated 0x01) := by decide

/-- The program of R69 and its 13 bytes. -/
theorem test_encode_program : encodeProgram [.push 5, .push 4, .add, .print, .stop] =
    [0x01, 0x05, 0x00, 0x00, 0x00, 0x01, 0x04, 0x00, 0x00, 0x00, 0x05, 0x10, 0x11] := by decide

theorem test_table_word_push : decodeTableWord 40 0x800000002A01 = some (.push 0x2A) ∧
    decodeTableWord 40 0x8000000001 = some (.push minI32) ∧ decodeTableWord 8 0xFF01 = some (.push 0) := by
  decide
theorem test_table_word_unknown : decodeTableWord 8 0x12 = none := by decide

/-- The instruction placed in the reset state is the first that runs. -/
theorem test_withFetchWord_runs_push :
    view (step (State.reset.withFetchWord 40 0x2A01)) = some ([42], 5, .running) := by decide
theorem test_withFetchWord_runs_stop :
    view (step (State.reset.withFetchWord 8 0x11)) = some ([], 1, .halted .normal) := by decide

/-! ### Instructions (95_test_vectors.md section 2) -/

theorem test_nop : view (step (running [0x00, 0x11] [])) = some ([], 1, .running) := by decide
theorem test_stop : view (step (running [0x11, 0xFF] [9])) = some ([9], 1, .halted .normal) := by decide
theorem test_push : view (step (running [0x01, 0x00, 0x00, 0x00, 0x80, 0x11] [])) =
    some ([minI32], 5, .running) := by decide
theorem test_push_full : view (step (tight 1 [0x01, 0x05, 0x00, 0x00, 0x00] [7])) =
    some ([7], 0, .halted (.fault .stackOverflow)) := by decide
theorem test_pop : view (step (running [0x02] [9, 3])) = some ([3], 1, .running) := by decide
theorem test_dup : view (step (running [0x03] [7])) = some ([7, 7], 1, .running) := by decide
theorem test_dup_no_capacity : view (step (tight 0 [0x03] [])) =
    some ([], 0, .halted (.fault .stackUnderflow)) := by decide
theorem test_swap : view (step (running [0x04] [3, 2, 1])) = some ([2, 3, 1], 1, .running) := by decide
theorem test_swap_one : view (step (running [0x04] [1])) =
    some ([1], 0, .halted (.fault .stackUnderflow)) := by decide
theorem test_add_wraps : view (step (running [0x05] [1, maxI32])) = some ([minI32], 1, .running) := by decide
theorem test_sub_order : view (step (running [0x06] [2, 7, 8])) = some ([5, 8], 1, .running) := by decide
theorem test_sub_wraps : view (step (running [0x06] [1, minI32])) = some ([maxI32], 1, .running) := by decide
theorem test_mul_wraps : view (step (running [0x07] [46341, 46341])) =
    some ([-2147479015], 1, .running) := by decide
theorem test_mul_sign : view (step (running [0x07] [4, -3])) = some ([-12], 1, .running) := by decide
theorem test_div_truncates : view (step (running [0x08] [2, -7])) = some ([-3], 1, .running) := by decide
theorem test_div_zero_after_underflow : view (step (running [0x08] [0, minI32])) =
    some ([0, minI32], 0, .halted (.fault .divisionByZero)) := by decide
theorem test_div_overflow_wraps : view (step (running [0x08] [-1, minI32])) =
    some ([minI32], 1, .running) := by decide
theorem test_jmp_to_end : view (step (running [0x09, 0x05, 0x00, 0x00, 0x00] [])) =
    some ([], 5, .running) := by decide
theorem test_jmp_past_end : view (step (running [0x09, 0x06, 0x00, 0x00, 0x00] [])) =
    some ([], 0, .halted (.fault .invalidJumpTarget)) := by decide
theorem test_jz_not_taken_bad_target : view (step (running [0x0A, 0x63, 0x00, 0x00, 0x00] [1])) =
    some ([], 5, .running) := by decide
theorem test_jz_taken_bad_target : view (step (running [0x0A, 0x63, 0x00, 0x00, 0x00] [0])) =
    some ([0], 0, .halted (.fault .invalidJumpTarget)) := by decide
theorem test_jnz_min_taken : view (step (running [0x0B, 0x05, 0x00, 0x00, 0x00] [minI32])) =
    some ([], 5, .running) := by decide
theorem test_jnz_negative_target : view (step (running [0x0B, 0xFB, 0xFF, 0xFF, 0xFF] [1])) =
    some ([1], 0, .halted (.fault .invalidJumpTarget)) := by decide
theorem test_call_frame :
    (after (step (running [0x0C, 0x06, 0x00, 0x00, 0x00, 0x11, 0x0D] [6, 4]))).map
      (fun t => (t.calls, t.ip, t.stack)) = some ([⟨5, 2⟩], 6, [6, 4]) := by decide
theorem test_call_full_before_target :
    view (step (tight 0 [0x0C, 0x63, 0x00, 0x00, 0x00] [])) =
      some ([], 0, .halted (.fault .callStackOverflow)) := by decide
theorem test_ret :
    (after (exec .ret { running [] [4] with calls := [⟨25, 2⟩] })).map
      (fun t => (t.calls, t.ip, t.stack)) = some ([], 25, [4]) := by decide
theorem test_ret_empty : view (step (running [0x0D] [])) =
    some ([], 0, .halted (.fault .callStackUnderflow)) := by decide
theorem test_load : view (exec .load { running [] [3] with mem := [(3, 77)] }) =
    some ([77], 1, .running) := by decide
theorem test_load_at_size : view (step (running [0x0E] [256])) =
    some ([256], 0, .halted (.fault .invalidMemoryAddress)) := by decide
theorem test_store_order :
    (after (step (running [0x0F] [7, 99]))).map (fun t => (t.stack, t.mem)) = some ([], [(7, 99)]) := by
  decide
theorem test_store_zero_unlists :
    (after (exec .store { running [] [5, 0] with mem := [(5, 1), (9, 2)] })).map (·.mem) =
      some [(9, 2)] := by decide
theorem test_print :
    (after (exec .print { running [] [-1, 8] with out := [4] })).map (fun t => (t.out, t.stack)) =
      some ([4, -1], [8]) := by decide
theorem test_end_of_code : view (step (running [] [5])) = some ([5], 0, .halted .normal) := by decide
theorem test_unknown_opcode : view (step (running [0x12, 0x11] [7])) =
    some ([7], 0, .halted (.fault .unknownOpcode)) := by decide
theorem test_truncated_before_overflow : view (step (tight 0 [0x01] [])) =
    some ([], 0, .halted (.fault .outOfBounds)) := by decide
theorem test_truncated_before_underflow : view (step (running [0x0A, 0x00] [])) =
    some ([], 0, .halted (.fault .outOfBounds)) := by decide

/-- R161: min_i32, 0 and -1 as three lines. -/
theorem test_render : renderAll [minI32, 0, -1] =
    [0x2D, 0x32, 0x31, 0x34, 0x37, 0x34, 0x38, 0x33, 0x36, 0x34, 0x38, 0x0A, 0x30, 0x0A, 0x2D, 0x31, 0x0A] := by
  decide

/-- R120: the examples of the unreachable functions. -/
theorem test_alu_mod : alu .mod 0 (-7) 2 = some (-1) ∧ alu .mod 0 7 (-2) = some 1 ∧
    alu .mod 0 minI32 (-1) = some 0 ∧ alu .lt 0 minI32 0 = some 1 := by decide

/-- R118: function select. -/
theorem test_alu_select : aluSelect 8 = .compute .div ∧ aluSelect 10 = .zeroTest ∧
    aluSelect 14 = .idle ∧ aluSelect 18 = .idle := by decide

/-! ### The host (95_test_vectors.md section 2.7) -/

theorem test_run_request :
    view (step { State.fresh Config.standard [0x11] 0 with request := some .run }) =
      some ([], 0, .running) := by decide
theorem test_reset_request :
    after (step { (running [0x11] [3]).raise .stackUnderflow with
      mem := [(7, 99)], out := [1], request := some .reset }) =
      some (State.fresh Config.standard [0x11] 0) := by decide
theorem test_ports_after_fault :
    ((running [0x08] [0, 3]).raise .divisionByZero).portFaultCode = 5 ∧
      ((running [0x08] [0, 3]).raise .divisionByZero).readStack 0 = some 3 ∧
      (running [0x08] [0, 3]).readStack 0 = none := by decide

/-! ### Witnesses: encoding -/

theorem witness_DecodeOfEncode : (Instr.push minI32).wf = true := by decide
theorem witness_EncodeOfDecode : decode [0x01, 0x2A, 0x00, 0x00, 0x00, 0x11] = .ok (.push 42, [0x11]) := by
  decide
theorem witness_DecodeRefuses_unknown : 18 ≤ (0x12 : Byte).toNat ∧ 18 ≤ (0xFF : Byte).toNat := by decide
theorem witness_DecodeRefuses_truncated :
    (0x0C : Byte) ∈ [1#8, 9#8, 10#8, 11#8, 12#8] ∧ ([0, 0, 0] : List Byte).length < 4 := by decide
theorem witness_DecodeRefuses_ok : (0x0C : Byte).toNat < 18 ∧
    ((0x0C : Byte) ∈ [1#8, 9#8, 10#8, 11#8, 12#8] → 4 ≤ ([0, 0, 0, 0] : List Byte).length) ∧
    (0x11 : Byte).toNat < 18 ∧
    ((0x11 : Byte) ∈ [1#8, 9#8, 10#8, 11#8, 12#8] → 4 ≤ ([] : List Byte).length) := by decide
theorem witness_LengthFollows : decode (0x09 :: [0, 0, 0, 0, 5]) = .ok (.jmp 0, [5]) ∧
    decode (0x11 :: [5]) = .ok (.stop, [5]) := by decide

/-! ### Witnesses: the loop -/

theorem witness_StepRuns : (running [0x05] [4, 5]).request = none ∧ (running [0x05] [4, 5]).status = .running ∧
    decode ((running [0x05] [4, 5]).code.drop (running [0x05] [4, 5]).ip) = .ok (.add, []) ∧
    Instr.add.wf = true := by decide
theorem witness_EndOfCode : (running [] [5]).request = none ∧ (running [] [5]).status = .running ∧
    (running [] [5]).code.length ≤ (running [] [5]).ip := by decide
theorem witness_Undecodable_unknown : (running [0x12] []).request = none ∧
    (running [0x12] []).status = .running ∧
    (running [0x12] []).code.drop (running [0x12] []).ip = 0x12 :: [] ∧ 18 ≤ (0x12 : Byte).toNat := by decide
theorem witness_Undecodable_truncated : (running [0x01, 0, 0, 0] []).request = none ∧
    (running [0x01, 0, 0, 0] []).status = .running ∧
    (running [0x01, 0, 0, 0] []).code.drop (running [0x01, 0, 0, 0] []).ip = 0x01 :: [0, 0, 0] ∧
    (0x01 : Byte) ∈ [1#8, 9#8, 10#8, 11#8, 12#8] ∧ ([0, 0, 0] : List Byte).length < 4 := by decide
theorem witness_Fetch_unknown : (running [0x12] []).codeRead8 (running [0x12] []).ip = .ok 0x12 ∧
    18 ≤ (0x12 : Byte).toNat := by decide
theorem witness_Fetch_truncated : (running [0x01, 0, 0, 0] []).codeRead8 0 = .ok 0x01 ∧
    (0x01 : Byte) ∈ [1#8, 9#8, 10#8, 11#8, 12#8] ∧
    (running [0x01, 0, 0, 0] []).codeRead32 1 = .error .outOfBounds := by decide
theorem witness_Fetch_immediate : (running [0x0C, 1, 0, 0, 0] []).codeRead8 0 = .ok 0x0C ∧
    (0x0C : Byte) ∈ [1#8, 9#8, 10#8, 11#8, 12#8] ∧
    (running [0x0C, 1, 0, 0, 0] []).codeRead32 1 = .ok 1 := by decide
theorem witness_Fetch_plain : (running [0x11] []).codeRead8 0 = .ok 0x11 ∧ (0x11 : Byte).toNat < 18 ∧
    (0x11 : Byte) ∉ [1#8, 9#8, 10#8, 11#8, 12#8] := by decide
theorem witness_CodeReads : (running [1, 2, 3, 4] []).code.length < 4 + 1 ∧
    3 < (running [1, 2, 3, 4] []).code.length ∧ (running [1, 2, 3, 4] []).code.length < 1 + 4 ∧
    0 + 3 < (running [1, 2, 3, 4] []).code.length := by decide
theorem witness_Idle : State.reset.request = none ∧ State.reset.status ≠ .running ∧
    (running [] []).haltNormal.request = none ∧ (running [] []).haltNormal.status = .halted .normal ∧
    (running [] []).request = none ∧ (running [] []).status = .running := by decide
theorem witness_JumpToItself : (running [9, 0, 0, 0, 0] []).request = none ∧
    (running [9, 0, 0, 0, 0] []).status = .running ∧
    (running [9, 0, 0, 0, 0] []).code.drop (running [9, 0, 0, 0, 0] []).ip = encode (.jmp 0) ++ [] ∧
    (0 : Word).toInt = (running [9, 0, 0, 0, 0] []).ip := by decide
theorem witness_EveryStepCompletes : (running [0x0D] []).request = none := by decide

/-! ### Witnesses: the host's operations -/

/-- A halted core with the request `r` pending. -/
def haltedWith (r : HostRequest) : State := { (running [0x11] [3]).haltNormal with request := some r }

/-- A configuration at the bounds of 00_scope.md R3. -/
def largest : Config := Config.mk 2147483647 2147483647 2147483648 true .faultFreeAny

theorem witness_RunRequest :
    { State.fresh largest [0x11] 0 with request := some .run }.request = some .run ∧
      { State.fresh largest [0x11] 0 with request := some .run }.status = .ready := by decide
theorem witness_Reset : (haltedWith .reset).request = some .reset ∧ (haltedWith .reset).status ≠ .running := by
  decide
theorem witness_ResetIsConstruct : (haltedWith .reset).status ≠ .running ∧
    launchOk (haltedWith .reset).cfg (haltedWith .reset).code = true := by decide
theorem witness_Refused_run : (haltedWith .run).request = some .run ∧ (haltedWith .run).status ≠ .ready := by
  decide
theorem witness_Refused_whileRunning :
    { running [] [] with request := some .reset }.request = some .reset ∧
      { running [] [] with request := some .reset }.status = .running ∧
      { running [] [] with request := some (.construct largest []) }.request =
        some (.construct largest []) := by decide
theorem witness_Refused_bounds :
    (haltedWith (.construct { largest with memSize := 2147483649 } [])).request =
      some (.construct { largest with memSize := 2147483649 } []) ∧
    (haltedWith (.construct { largest with memSize := 2147483649 } [])).status ≠ .running ∧
    ¬({ largest with memSize := 2147483649 }.memSize ≤ 2147483648) := by decide
theorem witness_Construct_bounds :
    (haltedWith (.construct largest [0x00])).request = some (.construct largest [0x00]) ∧
    (haltedWith (.construct largest [0x00])).status ≠ .running ∧
    largest.stackCap ≤ 2147483647 ∧ largest.callCap ≤ 2147483647 ∧ largest.memSize ≤ 2147483648 ∧
      ([0x00] : List Byte).length ≤ 2147483647 := by decide
theorem witness_Introspection : (haltedWith .run).status ≠ .running ∧ 0 < (haltedWith .run).stack.length ∧
    (haltedWith .run).stack.length ≤ 1 ∧ 255 < (haltedWith .run).cfg.memSize ∧
    (haltedWith .run).cfg.memSize ≤ 256 ∧ (running [] []).status = .running := by decide
theorem witness_FaultCode : ((running [] []).raise .outOfBounds).status = .halted (.fault .outOfBounds) := by
  decide

/-! ### Witnesses: primitives -/

theorem witness_OperandStack : (tight 1 [] [7]).stack.length = (tight 1 [] [7]).cfg.stackCap ∧
    (tight 2 [] [7]).stack.length ≠ (tight 2 [] [7]).cfg.stackCap ∧ (tight 0 [] []).stack.length = 0 ∧
    (tight 2 [] [7]).stackCells = [] ++ [7] ∧ (tight 1 [] [7]).stackCells = [] ++ [7] ∧
    (tight 2 [] [7]).stack.length < 2 ∧ (tight 3 [] [3, 2, 1]).stackCells = [1] ++ [2, 3] := by decide
theorem witness_CallStack :
    { tight 1 [] [] with calls := [⟨5, 0⟩] }.calls.length =
      { tight 1 [] [] with calls := [⟨5, 0⟩] }.cfg.callCap ∧
    (tight 1 [] []).calls.length ≠ (tight 1 [] []).cfg.callCap ∧ (tight 1 [] []).calls.length = 0 ∧
    { tight 1 [] [] with calls := [⟨5, 0⟩] }.frames = [] ++ [⟨5, 0⟩] := by decide
theorem witness_DataMemory : (tight 1 [] []).mem.wf = true ∧
    ¬(0 ≤ (-1 : Word).toInt ∧ (-1 : Word).toInt < (tight 1 [] []).cfg.memSize) ∧
    ¬(0 ≤ (4 : Word).toInt ∧ (4 : Word).toInt < (tight 1 [] []).cfg.memSize) ∧
    (0 ≤ (3 : Word).toInt ∧ (3 : Word).toInt < (tight 1 [] []).cfg.memSize) ∧
    ((0 : Nat) : Int) ≠ (3 : Word).toInt := by decide

/-! ### Witnesses: instructions -/

theorem witness_Push : (tight 2 [] [7]).stack.length ≠ (tight 2 [] [7]).cfg.stackCap ∧
    (tight 1 [] [7]).stack.length = (tight 1 [] [7]).cfg.stackCap := by decide
theorem witness_Pop : (running [] [9, 3]).stack = 9 :: [3] := by decide
theorem witness_Dup : (tight 2 [] [7]).stack = 7 :: [] ∧
    (tight 2 [] [7]).stack.length ≠ (tight 2 [] [7]).cfg.stackCap ∧ (tight 1 [] [7]).stack = 7 :: [] ∧
    (tight 1 [] [7]).stack.length = (tight 1 [] [7]).cfg.stackCap := by decide
theorem witness_Swap : (running [] [3, 2, 1]).stack = 3 :: 2 :: [1] := by decide
theorem witness_AddSubMul : (running [] [1, maxI32]).stack = 1 :: maxI32 :: [] := by decide
theorem witness_Div : (running [] [0, 3]).stack = 0 :: 3 :: [] ∧
    (running [] [-1, minI32]).stack = -1 :: minI32 :: [] ∧
    (running [] [-1, minI32]).cfg.divOverflow = .wrap ∧
    { running [] [-1, minI32] with cfg := largest }.cfg.divOverflow = .faultFreeAny ∧
    (running [] [-1, 3]).stack = -1 :: 3 :: [] ∧ ((-1 : Word) ≠ 0 ∧ ¬((3 : Word) = minI32 ∧ (-1 : Word) = -1)) := by
  decide
theorem witness_Jmp : (0 ≤ (1 : Word).toInt ∧ (1 : Word).toInt ≤ (running [0] []).code.length) ∧
    ¬(0 ≤ (2 : Word).toInt ∧ (2 : Word).toInt ≤ (running [0] []).code.length) ∧
    ¬(0 ≤ (-1 : Word).toInt ∧ (-1 : Word).toInt ≤ (running [0] []).code.length) := by decide

/-- A running core that checks untaken targets. -/
def checking (code : List Byte) (stack : List Word) : State := { running code stack with cfg := largest }

theorem witness_Jz : (running [0] [0]).stack = 0 :: [] ∧
    (0 ≤ (1 : Word).toInt ∧ (1 : Word).toInt ≤ (running [0] [0]).code.length) ∧
    (running [0] [5]).stack = 5 :: [] ∧ (5 : Word) ≠ 0 ∧
    ((running [0] [5]).cfg.validateUntakenTarget = true → False) ∧
    (checking [0] [5]).cfg.validateUntakenTarget = true ∧
    ¬(0 ≤ (2 : Word).toInt ∧ (2 : Word).toInt ≤ (checking [0] [5]).code.length) := by decide
theorem witness_Jnz : (running [0] [5]).stack = 5 :: [] ∧ (5 : Word) ≠ 0 ∧
    (0 ≤ (0 : Word).toInt ∧ (0 : Word).toInt ≤ (running [0] [5]).code.length) ∧
    (running [0] [0]).stack = 0 :: [] ∧ ((running [0] [0]).cfg.validateUntakenTarget = true → False) ∧
    (checking [0] [0]).cfg.validateUntakenTarget = true ∧
    ¬(0 ≤ (2 : Word).toInt ∧ (2 : Word).toInt ≤ (checking [0] [0]).code.length) := by decide
theorem witness_Call : (tight 1 [0] []).calls.length ≠ (tight 1 [0] []).cfg.callCap ∧
    (0 ≤ (1 : Word).toInt ∧ (1 : Word).toInt ≤ (tight 1 [0] []).code.length) ∧
    (tight 0 [0] []).calls.length = (tight 0 [0] []).cfg.callCap ∧
    ¬(0 ≤ (2 : Word).toInt ∧ (2 : Word).toInt ≤ (tight 1 [0] []).code.length) := by decide
theorem witness_Ret : { running [] [] with calls := [⟨25, 2⟩] }.calls = ⟨25, 2⟩ :: [] ∧
    (running [] []).calls = [] := by decide
theorem witness_Load : (tight 2 [] [3]).stack = 3 :: [] ∧
    (0 ≤ (3 : Word).toInt ∧ (3 : Word).toInt < (tight 2 [] [3]).cfg.memSize) ∧
    ¬(0 ≤ (4 : Word).toInt ∧ (4 : Word).toInt < (tight 2 [] [4]).cfg.memSize) ∧
    ¬(0 ≤ (-1 : Word).toInt ∧ (-1 : Word).toInt < (tight 2 [] [-1]).cfg.memSize) := by decide
theorem witness_Store : (tight 2 [] [3, 99]).stack = 3 :: 99 :: [] ∧
    (0 ≤ (3 : Word).toInt ∧ (3 : Word).toInt < (tight 2 [] [3, 99]).cfg.memSize) ∧
    ¬(0 ≤ (4 : Word).toInt ∧ (4 : Word).toInt < (tight 2 [] [4, 99]).cfg.memSize) := by decide
theorem witness_Print : (running [] [9]).stack = 9 :: [] := by decide
theorem witness_MissingOperands : (running [] []).stack.length = 0 ∧
    Instr.jz 3 ∈ [Instr.pop, .dup, .print, .load, .jz 3, .jnz 3] ∧ (running [] [1]).stack.length < 2 ∧
    Instr.store ∈ [Instr.swap, .add, .sub, .mul, .div, .store] := by decide

/-! ### Witnesses: laws, frames, the whole machine -/

theorem witness_DivQuotient : (running [] [2, -7]).stack = 2 :: -7 :: [] ∧ (2 : Word) ≠ 0 ∧
    ¬((-7 : Word) = minI32 ∧ (2 : Word) = -1) := by decide
theorem witness_SubUndoesAdd : ∃ u v, (tight 2 [] [1, maxI32]).stack = 1 :: maxI32 :: [] ∧
    (tight 2 [] [1, maxI32]).stack.length ≤ (tight 2 [] [1, maxI32]).cfg.stackCap ∧
    exec .add (tight 2 [] [1, maxI32]) = .next u ∧ exec (.push 1) u = .next v :=
  ⟨_, _, rfl, by decide, rfl, rfl⟩
theorem witness_LoadAfterStore : ∃ t, (tight 2 [] [3, 99]).mem.wf = true ∧
    (tight 2 [] [3, 99]).stack = 3 :: 99 :: [] ∧ 0 ≤ (3 : Word).toInt ∧
    (3 : Word).toInt < (tight 2 [] [3, 99]).cfg.memSize ∧ 0 ≤ (0 : Word).toInt ∧
    (0 : Word).toInt < (tight 2 [] [3, 99]).cfg.memSize ∧ exec .store (tight 2 [] [3, 99]) = .next t ∧
    { t with stack := [0] }.mem = t.mem ∧ { t with stack := [0] }.cfg = t.cfg ∧
    { t with stack := [0] }.stack = 0 :: [] :=
  ⟨_, rfl, rfl, by decide, by decide, by decide, by decide, rfl, rfl, rfl, rfl⟩
theorem witness_RetUndoesCall : ∃ t, (tight 1 [0] []).calls.length ≠ (tight 1 [0] []).cfg.callCap ∧
    0 ≤ (1 : Word).toInt ∧ (1 : Word).toInt ≤ (tight 1 [0] []).code.length ∧
    exec (.call 1) (tight 1 [0] []) = .next t ∧ t.calls = t.calls :=
  ⟨_, by decide, by decide, by decide, rfl, rfl⟩
theorem witness_FunctionSelect : aluSelect Instr.sub.opcode = .compute .sub ∧
    (running [] [2, 7]).stack = 2 :: 7 :: [] ∧ alu .sub 0 7 2 = some 5 ∧
    aluSelect Instr.div.opcode = .compute .div ∧ alu .div 0 7 0 = none := by decide
theorem witness_UnreachableAlu : (0 : Word) = 0 ∧ (2 : Word) ≠ 0 ∧ 31 < 32 := by decide
theorem witness_OnlyStore : ∃ t, Instr.load ≠ .store ∧ exec .load (tight 2 [] [3]) = .next t :=
  ⟨_, by decide, rfl⟩
theorem witness_StoreChanges : ∃ t u v, (tight 2 [] [3, 99]).mem.wf = true ∧
    exec .store (tight 2 [] [3, 99]) = .next t ∧ (tight 2 [] [3, 99]).stack = 3 :: 99 :: [] ∧
    (tight 2 [] [3, 99]).addrValid 3 = true ∧ 2 ≠ cellIndex 3 ∧
    exec .store (tight 2 [] [4, 99]) = .next u ∧ (tight 2 [] [4, 99]).stack = 4 :: 99 :: [] ∧
    (tight 2 [] [4, 99]).addrValid 4 = false ∧ exec .store (tight 2 [] [3]) = .next v ∧
    (tight 2 [] [3]).stack.length < 2 :=
  ⟨_, _, _, rfl, rfl, rfl, by decide, by decide, rfl, rfl, by decide, rfl, by decide⟩
/-- For StackChangesOnlyAtItsTop, EachElementHasItsOwnWriters, InstructionPointerGoesNowhereElse and
OutputPortCarriesThePrintedValue, whose hypothesis is that an instruction answers a next state. -/
theorem witness_ExecNext : ∃ t, exec .print (running [] [9]) = .next t ∧ t.out = [9] := ⟨_, rfl, rfl⟩
/-- For FaultsArePrecise and InstructionsRaiseTheirOwnFaultsAlone. -/
theorem witness_FaultsArePrecise : (running [] [0, 3]).status = .running ∧
    exec .div (running [] [0, 3]) = .next ((running [] [0, 3]).raise .divisionByZero) ∧
    ((running [] [0, 3]).raise .divisionByZero).status = .halted (.fault .divisionByZero) :=
  ⟨rfl, rfl, rfl⟩
theorem witness_Invariant : ∃ t, (running [0x01, 0x2A, 0, 0, 0] [7]).Inv ∧
    step (running [0x01, 0x2A, 0, 0, 0] [7]) = .next t ∧ t.stack = [42, 7] :=
  ⟨_, by decide, rfl, rfl⟩
theorem witness_StatusTransitions_reset :
    ∃ t, step (haltedWith .reset) = .next t ∧ t.status = .ready := ⟨_, rfl, rfl⟩
theorem witness_StatusTransitions_construct :
    ∃ t, step (haltedWith (.construct largest [0x11])) = .next t ∧ t.status = .ready := ⟨_, rfl, rfl⟩
theorem witness_StatusTransitions_run :
    ∃ t, step { State.fresh largest [0x11] 0 with request := some .run } = .next t ∧ t.status = .running :=
  ⟨_, rfl, rfl⟩
theorem witness_StatusTransitions_halt :
    ∃ t, step (running [0x11] []) = .next t ∧ t.status = .halted .normal := ⟨_, rfl, rfl⟩
theorem witness_StatusTransitions_stay :
    ∃ t, step (running [0x00] []) = .next t ∧ t.status = (running [0x00] []).status := ⟨_, rfl, rfl⟩
theorem witness_RunsKeepCode : ∃ t, (running [0x10, 0x11] [9]).request = none ∧
    Host.Core.run Sys2Proof.core 2 (running [0x10, 0x11] [9]) = .next t ∧ t.out = [9] :=
  ⟨_, rfl, rfl, rfl⟩

/-- PUSH 5; PUSH 4; ADD; PRINT (45_output.md R160). -/
def straight : List Instr := [.push 5, .push 4, .add, .print]

/-- The state that program begins in, with a STOP after it. -/
def straightStart : State := running (encodeProgram straight ++ [0x11]) []

theorem witness_StraightLine : straightStart.request = none ∧ straightStart.status = .running ∧
    straightStart.ip = (encodeProgram []).length ∧
    straightStart.code = encodeProgram [] ++ encodeProgram straight ++ [0x11] ∧
    (∀ i ∈ straight, i.target? = none ∧ i ≠ .ret ∧ i ≠ .stop) ∧
    ((straight.foldl (fun o i => match o with
      | some u => match exec i u with
        | .next w => if w.status = .running then some w else none
        | .fault _ => none
        | .refused _ => none
      | none => none) (some straightStart)).map (·.out)) = some [9] := by decide

end Sys2Proof.Tests
end

