-- ==== Sys2Proof/Proofs/Stacks.lean ====
section
/-!
PROOFS. The primitives of the two stack controllers, over the cells and frames bottom first (10_state.md R16,
R24). The state holds both stacks top first, so each rule reverses what the law of the primitive says.
-/
namespace Sys2Proof.Machine

/-! ### Bottom first and top first -/

@[simp] theorem State.stackCells_withStack (s : State) (l : List Word) :
    { s with stack := l }.stackCells = l.reverse := rfl

@[simp] theorem State.frames_withCalls (s : State) (l : List Frame) :
    { s with calls := l }.frames = l.reverse := rfl

theorem State.stack_of_stackCells {s : State} {below top : List Word} (h : s.stackCells = below ++ top) :
    s.stack = top.reverse ++ below.reverse := by
  rw [← List.reverse_append, ← h, State.stackCells, List.reverse_reverse]

theorem State.calls_of_frames {s : State} {below top : List Frame} (h : s.frames = below ++ top) :
    s.calls = top.reverse ++ below.reverse := by
  rw [← List.reverse_append, ← h, State.frames, List.reverse_reverse]

/-! ### Operand stack (10_state.md R18 to R22) -/

theorem State.push_stackCells {s : State} (v : Word) (h : s.stack.length ≠ s.cfg.stackCap) :
    ∃ t, s.push v = .ok t ∧ t.stackCells = s.stackCells ++ [v] ∧ t = { s with stack := t.stack } :=
  ⟨{ s with stack := v :: s.stack }, State.push_eq_ok.mpr ⟨h, rfl⟩, List.reverse_cons, rfl⟩

theorem State.pop_stackCells {s : State} {below : List Word} {v : Word} (h : s.stackCells = below ++ [v]) :
    ∃ t, s.pop = .ok (v, t) ∧ t.stackCells = below ∧ t = { s with stack := t.stack } :=
  ⟨{ s with stack := below.reverse }, State.pop_cons (State.stack_of_stackCells h), by simp, rfl⟩

theorem State.peek_stackCells {s : State} {below : List Word} {v : Word} (h : s.stackCells = below ++ [v]) :
    s.peek = .ok v :=
  State.peek_cons (State.stack_of_stackCells h)

/-- dup() is "peek then push" (10_state.md R21): on a non-empty stack it pushes the top entry again. -/
theorem State.dup_eq_push {s : State} {below : List Word} {v : Word} (h : s.stackCells = below ++ [v]) :
    s.dup = s.push v :=
  State.dup_cons (State.stack_of_stackCells h)

theorem State.dup_stackCells {s : State} {below : List Word} {v : Word} (h : s.stackCells = below ++ [v])
    (room : s.stack.length ≠ s.cfg.stackCap) :
    ∃ t, s.dup = .ok t ∧ t.stackCells = below ++ [v, v] ∧ t = { s with stack := t.stack } := by
  obtain ⟨t, hpush, hcells, hframe⟩ := State.push_stackCells v room
  exact ⟨t, (State.dup_eq_push h).trans hpush, by simp [hcells, h], hframe⟩

theorem State.swap_stackCells {s : State} {below : List Word} {a b : Word}
    (h : s.stackCells = below ++ [b, a]) :
    ∃ t, s.swap = .ok t ∧ t.stackCells = below ++ [a, b] ∧ t = { s with stack := t.stack } :=
  ⟨{ s with stack := b :: a :: below.reverse }, State.swap_cons (State.stack_of_stackCells h), by simp, rfl⟩

/-- Settles O20: the empty and the full stack by the laws of the primitives, the other cases by their rules
over the cells. -/
theorem operandStackPrimitives : Obligations.OperandStackPrimitives := by
  intro s
  refine ⟨fun v full => State.push_eq_error.mpr ⟨full, rfl⟩, fun v => State.push_stackCells v, ?empty,
    ?nonempty, State.swap_short, fun below b a => State.swap_stackCells⟩
  case empty =>
    intro hlen
    have hnil : s.stack = [] := List.length_eq_zero_iff.mp hlen
    exact ⟨State.pop_nil hnil, State.peek_nil hnil, State.dup_nil hnil⟩
  case nonempty =>
    intro below v h
    refine ⟨State.pop_stackCells h, State.peek_stackCells h, fun full => ?_, State.dup_stackCells h⟩
    exact (State.dup_eq_push h).trans (State.push_eq_error.mpr ⟨full, rfl⟩)

/-! ### Call stack (10_state.md R26, R27) -/

theorem State.pushFrame_frames {s : State} (f : Frame) (h : s.calls.length ≠ s.cfg.callCap) :
    ∃ t, s.pushFrame f = .ok t ∧ t.frames = s.frames ++ [f] ∧ t = { s with calls := t.calls } :=
  ⟨{ s with calls := f :: s.calls }, State.pushFrame_eq_ok.mpr ⟨h, rfl⟩, List.reverse_cons, rfl⟩

theorem State.popFrame_frames {s : State} {below : List Frame} {f : Frame} (h : s.frames = below ++ [f]) :
    ∃ t, s.popFrame = .ok (f, t) ∧ t.frames = below ∧ t = { s with calls := t.calls } :=
  ⟨{ s with calls := below.reverse }, State.popFrame_cons (State.calls_of_frames h), by simp, rfl⟩

/-- Settles O21: the full and the empty call stack by the laws of the primitives, the other cases by their
rules over the frames. -/
theorem callStackPrimitives : Obligations.CallStackPrimitives := by
  intro s
  refine ⟨fun f full => State.pushFrame_eq_error.mpr ⟨full, rfl⟩, fun f => State.pushFrame_frames f, ?empty,
    fun below f => State.popFrame_frames⟩
  case empty =>
    intro hlen
    exact State.popFrame_nil (List.length_eq_zero_iff.mp hlen)

end Sys2Proof.Machine
end

