-- ==== Sys2Proof/Proofs/MemoryPrimitives.lean ====
section
/-!
PROOFS. The reads of the code space (20_memory.md R41, R42) and the address decoder, MemRead and MemWrite on
the cells of the data memory (20_memory.md R46 to R48).
-/
namespace Sys2Proof.Machine

/-! ### Code space -/

theorem State.codeRead8_eq_ok {s : State} {a : Nat} {b : Byte} :
    s.codeRead8 a = .ok b ↔ ∃ h : a < s.code.length, s.code[a] = b := by
  rw [← List.getElem?_eq_some_iff]
  cases h : s.code[a]? <;> simp [State.codeRead8, h]

theorem State.codeRead8_eq_error {s : State} {a : Nat} {k : Fault} :
    s.codeRead8 a = .error k ↔ s.code.length ≤ a ∧ k = .outOfBounds := by
  rw [← List.getElem?_eq_none_iff]
  cases h : s.code[a]? <;> simp [State.codeRead8, h, eq_comm]

theorem State.codeRead8_inside {s : State} {a : Nat} (h : a < s.code.length) :
    s.codeRead8 a = .ok s.code[a] :=
  State.codeRead8_eq_ok.mpr ⟨h, rfl⟩

theorem State.codeRead32_inside {s : State} {a : Nat} (h : a + 3 < s.code.length) :
    s.codeRead32 a = .ok (wordOfBytes s.code[a] s.code[a + 1] s.code[a + 2] s.code[a + 3]) := by
  have h0 : a < s.code.length := by omega
  have h1 : a + 1 < s.code.length := by omega
  have h2 : a + 2 < s.code.length := by omega
  simp [State.codeRead32, State.codeRead8_inside h0, State.codeRead8_inside h1, State.codeRead8_inside h2,
    State.codeRead8_inside h]

theorem State.codeRead32_eq_ok {s : State} {a : Nat} {v : Word} :
    s.codeRead32 a = .ok v ↔ ∃ b0 b1 b2 b3, s.codeRead8 a = .ok b0 ∧ s.codeRead8 (a + 1) = .ok b1 ∧
      s.codeRead8 (a + 2) = .ok b2 ∧ s.codeRead8 (a + 3) = .ok b3 ∧ wordOfBytes b0 b1 b2 b3 = v := by
  simp [State.codeRead32, bind_eq_ok]

/-- CodeRead32 has no fault of its own: it answers one that CodeRead8 answers. -/
theorem State.codeRead32_error {s : State} {a : Nat} {k : Fault} (h : s.codeRead32 a = .error k) :
    k = .outOfBounds := by
  simp only [State.codeRead32, bind_eq_error, State.codeRead8_eq_error, pure_eq_ok] at h
  obtain ⟨-, hk⟩ | ⟨_, -, ⟨-, hk⟩ | ⟨_, -, ⟨-, hk⟩ | ⟨_, -, ⟨-, hk⟩ | ⟨_, -, hpure⟩⟩⟩⟩ := h
  · exact hk
  · exact hk
  · exact hk
  · exact hk
  · cases hpure

/-- A read that completed would have read the byte at `a + 3`. -/
theorem State.codeRead32_past {s : State} {a : Nat} (h : s.code.length < a + 4) :
    s.codeRead32 a = .error .outOfBounds := by
  cases hr : s.codeRead32 a with
  | error k => rw [State.codeRead32_error hr]
  | ok v =>
    obtain ⟨_, _, _, _, -, -, -, hlast, -⟩ := State.codeRead32_eq_ok.mp hr
    obtain ⟨hlt, -⟩ := State.codeRead8_eq_ok.mp hlast
    omega

/-- Settles O10: each read inside the code and past its end, and the value of four bytes. -/
theorem codeReadsAreBoundedAndLittleEndian : Obligations.CodeReadsAreBoundedAndLittleEndian := by
  intro s a
  refine ⟨fun past => State.codeRead8_eq_error.mpr ⟨Nat.le_of_lt_succ past, rfl⟩,
    fun inside => State.codeRead8_inside inside, State.codeRead32_past, fun inside => ?word⟩
  case word =>
    exact ⟨_, State.codeRead32_inside inside, toNat_wordOfBytes _ _ _ _, BitVec.toInt_eq_toNat_bmod _⟩

/-! ### Data memory -/

theorem cellIndex_eq_iff {a : Word} {b : Nat} (h : 0 ≤ a.toInt) : b = cellIndex a ↔ (b : Int) = a.toInt := by
  unfold cellIndex
  omega

theorem State.memRead_valid {s : State} {a : Word} (h : s.addrValid a = true) :
    s.memRead a = .ok (s.mem.read (cellIndex a)) :=
  State.memRead_eq_ok.mpr ⟨h, rfl⟩

theorem State.memWrite_valid {s : State} {a : Word} (v : Word) (h : s.addrValid a = true) :
    s.memWrite a v = .ok { s with mem := s.mem.write (cellIndex a) v } :=
  State.memWrite_eq_ok.mpr ⟨h, rfl⟩

/-- Settles O22: an invalid address by the laws of the two primitives, a valid one by their answers there and
the law of a read after a write on a canonical memory. -/
theorem dataMemoryPrimitives : Obligations.DataMemoryPrimitives := by
  intro s a v hwf
  refine ⟨State.addrValid_iff, fun invalid => ?outside, fun valid => ?inside⟩
  case outside =>
    have hinvalid : s.addrValid a = false := State.addrValid_eq_false invalid
    exact ⟨State.memRead_eq_error.mpr ⟨hinvalid, rfl⟩, State.memWrite_eq_error.mpr ⟨hinvalid, rfl⟩⟩
  case inside =>
    have hvalid : s.addrValid a = true := State.addrValid_iff.mpr valid
    refine ⟨State.memRead_valid hvalid, _, State.memWrite_valid v hvalid, rfl,
      Memory.read_write_same hwf (cellIndex a) v, fun b hb => ?other⟩
    case other => exact Memory.read_write_other hwf v (mt (cellIndex_eq_iff valid.1).mp hb)

end Sys2Proof.Machine
end

