-- ==== Sys2Proof/Proofs/WrappingArithmetic.lean ====
section
/-!
PROOFS. ADD, SUB and MUL (42_alu.md R111, R112, R114 to R116): one rule for an instruction that commits a
two-operand function of the ALU, the exact result that each of the three functions narrows, and the congruence
of the narrowing.
-/
namespace Sys2Proof.Machine

/-! ### What the narrowing keeps -/

/-- `wrap32` keeps the residue modulo 2^32 (00_scope.md section 5). -/
theorem two_pow_32_dvd_wrap32_sub (n : Int) : (2 : Int) ^ 32 ∣ (wrap32 n).toInt - n := by
  rw [wrap32, BitVec.toInt_ofInt]
  exact Int.dvd_bmod_sub_self

/-! ### The exact result behind each function, whatever `DIV_OVERFLOW` says -/

theorem alu_add_eq_wrap32 (q a b : Word) : alu .add q a b = some (wrap32 (a.toInt + b.toInt)) := by
  rw [alu_add, wrap32_add]

theorem alu_sub_eq_wrap32 (q a b : Word) : alu .sub q a b = some (wrap32 (a.toInt - b.toInt)) := by
  rw [alu_sub, wrap32_sub]

theorem alu_mul_eq_wrap32 (q a b : Word) : alu .mul q a b = some (wrap32 (a.toInt * b.toInt)) := by
  rw [alu_mul, wrap32_mul]

/-! ### The instructions -/

theorem exec_add (s : State) : exec .add s = s.commit (s.binary .add) := rfl

theorem exec_sub (s : State) : exec .sub s = s.commit (s.binary .sub) := rfl

theorem exec_mul (s : State) : exec .mul s = s.commit (s.binary .mul) := rfl

/-- A two-operand function with a result puts it in the place of both operands and moves `ip` on; no other
element of the state is written. -/
theorem State.commit_binary {s : State} {f : AluFn} {a b v : Word} {rest : List Word}
    (h : s.stack = b :: a :: rest) (hv : alu f s.overflowQuotient a b = some v) :
    s.commit (s.binary f) = .next { s with stack := v :: rest, ip := s.ip + 1 } := by
  rw [State.binary_cons h hv, State.commit_ok]

/-- Settles O30: each instruction commits its function of the ALU, which has a result for all operands. -/
theorem addSubMulWrapTheExactResult : Obligations.AddSubMulWrapTheExactResult := by
  intro s a b rest h
  refine ⟨?add, ?sub, ?mul, two_pow_32_dvd_wrap32_sub⟩
  case add => exact (exec_add s).trans (State.commit_binary h (alu_add_eq_wrap32 _ a b))
  case sub => exact (exec_sub s).trans (State.commit_binary h (alu_sub_eq_wrap32 _ a b))
  case mul => exact (exec_mul s).trans (State.commit_binary h (alu_mul_eq_wrap32 _ a b))

end Sys2Proof.Machine
end

section
/-!
PROOFS. The decoder and the encoder are inverse to each other (30_encoding.md R61 to R66, R69). Of the bytes
after an opcode byte there are three kinds: an unknown opcode, a truncated immediate, an encoded instruction.
-/
namespace Sys2Proof

/-- The opcode bytes of format `OPI`, which an immediate follows (30_encoding.md R62, R65). -/
abbrev immediateOpcodes : List Byte := [1#8, 9#8, 10#8, 11#8, 12#8]

/-! ### From an instruction to its bytes and back -/

theorem decodeImmediate_bytesOfWord (opcode : Byte) (mk : Word → Instr) (v : Word) (rest : List Byte) :
    decodeImmediate opcode mk (bytesOfWord v ++ rest) = .ok (mk v, rest) := by
  rw [decodeImmediate, takeImmediate_bytesOfWord]

theorem decode_encode_append (i : Instr) (rest : List Byte) : decode (encode i ++ rest) = .ok (i, rest) := by
  cases i with
  | push v => exact decodeImmediate_bytesOfWord 1 .push v rest
  | jmp x => exact decodeImmediate_bytesOfWord 9 .jmp x rest
  | jz x => exact decodeImmediate_bytesOfWord 10 .jz x rest
  | jnz x => exact decodeImmediate_bytesOfWord 11 .jnz x rest
  | call x => exact decodeImmediate_bytesOfWord 12 .call x rest
  | _ => rfl

/-- Settles O1: an opcode byte selects its own row, and an immediate is put together again from its bytes. -/
theorem decodeOfEncodeIsTheInstruction : Obligations.DecodeOfEncodeIsTheInstruction :=
  fun i rest _ => decode_encode_append i rest

/-- Settles O5: each word is the encoding of its instruction. -/
theorem writtenOutWordsDecode : Obligations.WrittenOutWordsDecode :=
  ⟨decode_encode_append .nop [], decode_encode_append (.push 42) [],
    decode_encode_append (.push minI32) [0x11], decode_encode_append (.jmp 6) [0xFF, 0x11],
    decode_encode_append (.jnz 0xFFFFFFFB) [], decode_encode_append .add [0x10, 0x11],
    decode_encode_append .stop []⟩

/-! ### The three kinds of bytes -/

theorem decode_unknown {opcode : Byte} (rest : List Byte) (h : 18 ≤ opcode.toNat) :
    decode (opcode :: rest) = .error (.unknownOpcode opcode) := by
  obtain ⟨n, hn⟩ := Nat.exists_eq_add_of_le' h
  simp only [decode, hn]

theorem decode_truncated {opcode : Byte} {rest : List Byte} (hop : opcode ∈ immediateOpcodes)
    (hlen : rest.length < 4) : decode (opcode :: rest) = .error (.truncated opcode) := by
  have short (mk : Word → Instr) : decodeImmediate opcode mk rest = .error (.truncated opcode) := by
    rw [decodeImmediate, takeImmediate_eq_none.mpr hlen]
  simp only [immediateOpcodes, List.mem_cons, List.not_mem_nil, or_false] at hop
  obtain rfl | rfl | rfl | rfl | rfl := hop
  · exact short .push
  · exact short .jmp
  · exact short .jz
  · exact short .jnz
  · exact short .call

/-- Every opcode byte of format `OPI` has an instruction for every immediate. -/
theorem exists_instr_with_immediate {opcode : Byte} (hop : opcode ∈ immediateOpcodes) (v : Word) :
    ∃ i : Instr, i.opcode = opcode ∧ i.immediate? = some v := by
  simp only [immediateOpcodes, List.mem_cons, List.not_mem_nil, or_false] at hop
  obtain rfl | rfl | rfl | rfl | rfl := hop
  · exact ⟨.push v, rfl, rfl⟩
  · exact ⟨.jmp v, rfl, rfl⟩
  · exact ⟨.jz v, rfl, rfl⟩
  · exact ⟨.jnz v, rfl, rfl⟩
  · exact ⟨.call v, rfl, rfl⟩

/-- The 13 instructions of format `OP` (30_encoding.md R61). -/
def plainInstrs : List Instr :=
  [.nop, .pop, .dup, .swap, .add, .sub, .mul, .div, .ret, .load, .store, .print, .stop]

/-- The opcode bytes of `plainInstrs` are the ones below 18 that no immediate follows. -/
theorem plainInstrs_cover : ∀ n : Fin 18, BitVec.ofNat 8 n ∉ immediateOpcodes →
    ∃ i ∈ plainInstrs, i.opcode = BitVec.ofNat 8 n ∧ i.immediate? = none := by
  decide

theorem exists_plain_instr {opcode : Byte} (h : opcode.toNat < 18) (hop : opcode ∉ immediateOpcodes) :
    ∃ i : Instr, i.opcode = opcode ∧ i.immediate? = none := by
  have hbyte : BitVec.ofNat 8 opcode.toNat = opcode := by simp
  obtain ⟨i, -, hi, himm⟩ := plainInstrs_cover ⟨opcode.toNat, h⟩ (hbyte.symm ▸ hop)
  exact ⟨i, hi.trans hbyte, himm⟩

/-- The immediate read off the head of some bytes is the word of those four bytes. -/
theorem eq_bytesOfWord_append {bytes rest : List Byte} {v : Word}
    (h : takeImmediate bytes = some (v, rest)) : bytes = bytesOfWord v ++ rest := by
  obtain ⟨b0, b1, b2, b3, rfl, rfl⟩ := takeImmediate_eq_some.mp h
  have hv := toNat_wordOfBytes b0 b1 b2 b3
  have byte (b : Byte) (start : Nat) (hb : (wordOfBytes b0 b1 b2 b3).toNat / 2 ^ start % 2 ^ 8 = b.toNat) :
      (wordOfBytes b0 b1 b2 b3).extractLsb' start 8 = b := by
    apply BitVec.eq_of_toNat_eq
    rw [BitVec.extractLsb'_toNat, Nat.shiftRight_eq_div_pow, hb]
  rw [bytesOfWord, byte b0 0 (by omega), byte b1 8 (by omega), byte b2 16 (by omega),
    byte b3 24 (by omega)]
  rfl

/-- An opcode of format `OPI` with an immediate after it begins the encoding of an instruction. -/
theorem cons_eq_encode_of_opi {opcode : Byte} {v : Word} {rest rest' : List Byte}
    (hop : opcode ∈ immediateOpcodes) (h : takeImmediate rest = some (v, rest')) :
    ∃ i, opcode :: rest = encode i ++ rest' ∧ i.opcode = opcode ∧ i.immediate? = some v := by
  obtain ⟨i, rfl, himm⟩ := exists_instr_with_immediate hop v
  refine ⟨i, ?_, rfl, himm⟩
  rw [encode, himm, eq_bytesOfWord_append h, List.cons_append]

/-- An opcode of format `OP` is an encoding by itself. -/
theorem cons_eq_encode_of_op {opcode : Byte} (rest : List Byte) (h : opcode.toNat < 18)
    (hop : opcode ∉ immediateOpcodes) :
    ∃ i, opcode :: rest = encode i ++ rest ∧ i.opcode = opcode ∧ i.immediate? = none := by
  obtain ⟨i, rfl, himm⟩ := exists_plain_instr h hop
  refine ⟨i, ?_, rfl, himm⟩
  rw [encode, himm, List.singleton_append]

/-- A defined opcode byte with its immediate, where it needs one, begins an encoding. -/
theorem exists_encode_append {opcode : Byte} {rest : List Byte} (h : opcode.toNat < 18)
    (hlen : opcode ∈ immediateOpcodes → 4 ≤ rest.length) :
    ∃ i rest', opcode :: rest = encode i ++ rest' ∧ i.opcode = opcode := by
  by_cases hop : opcode ∈ immediateOpcodes
  · obtain ⟨⟨v, rest'⟩, htake⟩ : ∃ p, takeImmediate rest = some p :=
      Option.ne_none_iff_exists'.mp fun hnone =>
        absurd (takeImmediate_eq_none.mp hnone) (Nat.not_lt.mpr (hlen hop))
    obtain ⟨i, hbytes, hi, -⟩ := cons_eq_encode_of_opi hop htake
    exact ⟨i, rest', hbytes, hi⟩
  · obtain ⟨i, hbytes, hi, -⟩ := cons_eq_encode_of_op rest h hop
    exact ⟨i, rest, hbytes, hi⟩

/-- Settles O3: an unknown byte and a short immediate are refused by name, and a defined byte with its
immediate begins an encoding. -/
theorem decodeRefusesUnknownAndTruncatedAlone : Obligations.DecodeRefusesUnknownAndTruncatedAlone := by
  intro opcode rest
  refine ⟨decode_unknown rest, fun ⟨hop, hlen⟩ => decode_truncated hop hlen, fun ⟨h, hlen⟩ => ?_⟩
  obtain ⟨i, rest', hbytes, hi⟩ := exists_encode_append h hlen
  exact ⟨i, rest', by rw [hbytes, decode_encode_append], hi⟩

/-! ### From bytes to an instruction and back -/

theorem encode_append_of_decode {bytes rest : List Byte} {i : Instr} (h : decode bytes = .ok (i, rest)) :
    bytes = encode i ++ rest := by
  match bytes with
  | [] => cases h
  | opcode :: tail =>
    have hknown : opcode.toNat < 18 := by
      by_contra hunknown
      rw [decode_unknown tail (Nat.le_of_not_lt hunknown)] at h
      cases h
    have hlen (hop : opcode ∈ immediateOpcodes) : 4 ≤ tail.length := by
      by_contra hshort
      rw [decode_truncated hop (Nat.lt_of_not_le hshort)] at h
      cases h
    obtain ⟨j, rest', hbytes, -⟩ := exists_encode_append hknown hlen
    rw [hbytes, decode_encode_append] at h
    cases h
    exact hbytes

/-- Settles O2: bytes that decode are none of the refused kinds, so they begin an encoding, and decoding that
encoding gives its instruction back. -/
theorem encodeOfDecodeIsTheBytes : Obligations.EncodeOfDecodeIsTheBytes :=
  fun _ _ _ h => encode_append_of_decode h

/-- The shape of every encoding, from the family of the instructions. -/
theorem encodingShape (i : Instr) : Laws.EncodingShape.Statement i :=
  match i with
  | .nop => Laws.EncodingShape.nop
  | .push v => Laws.EncodingShape.push v
  | .pop => Laws.EncodingShape.pop
  | .dup => Laws.EncodingShape.dup
  | .swap => Laws.EncodingShape.swap
  | .add => Laws.EncodingShape.add
  | .sub => Laws.EncodingShape.sub
  | .mul => Laws.EncodingShape.mul
  | .div => Laws.EncodingShape.div
  | .jmp x => Laws.EncodingShape.jmp x
  | .jz x => Laws.EncodingShape.jz x
  | .jnz x => Laws.EncodingShape.jnz x
  | .call x => Laws.EncodingShape.call x
  | .ret => Laws.EncodingShape.ret
  | .load => Laws.EncodingShape.load
  | .store => Laws.EncodingShape.store
  | .print => Laws.EncodingShape.print
  | .stop => Laws.EncodingShape.stop

theorem encode_length (i : Instr) : (encode i).length = i.length := by
  obtain ⟨-, hlen, -⟩ := encodingShape i
  exact hlen

/-- The length of a defined opcode byte: 5 for format `OPI`, else 1 (30_encoding.md R65). -/
theorem Instr.length_eq (i : Instr) : i.length = if i.opcode ∈ immediateOpcodes then 5 else 1 := by
  obtain ⟨-, -, hlen⟩ := encodingShape i
  by_cases hop : i.opcode ∈ immediateOpcodes
  · rw [Instr.length, lengthOfOpcode, if_pos hop, if_pos hop]
  · rw [if_neg hop]
    refine hlen.resolve_right ?_
    rw [lengthOfOpcode, if_neg hop]
    split <;> decide

/-- Settles O4: the bytes that decode are an encoding, as long as its opcode byte says. -/
theorem lengthFollowsTheOpcodeByte : Obligations.LengthFollowsTheOpcodeByte := by
  intro opcode rest rest' i h
  have hbytes := encode_append_of_decode h
  obtain ⟨hfirst, -, -⟩ := encodingShape i
  have hop : i.opcode = opcode := by
    have hhead := congrArg List.head? hbytes
    rw [List.head?_append, hfirst] at hhead
    exact (Option.some.inj hhead).symm
  have hlen := congrArg List.length hbytes
  rw [List.length_cons, List.length_append, encode_length, Instr.length_eq, hop] at hlen
  exact (Nat.add_comm _ _).trans hlen.symm

end Sys2Proof
end

section
/-!
PROOFS. The fetch against the code reads of the step function's pseudocode (40_interpreter_loop.md R82): the
bytes that CodeRead8 and CodeRead32 read are the ones the decoder takes off the code from `ip` on.
-/
namespace Sys2Proof.Machine

theorem State.drop_of_codeRead8 {s : State} {a : Nat} {b : Byte} (h : s.codeRead8 a = .ok b) :
    s.code.drop a = b :: s.code.drop (a + 1) := by
  obtain ⟨hlt, rfl⟩ := State.codeRead8_eq_ok.mp h
  exact List.drop_eq_getElem_cons hlt

theorem State.takeImmediate_of_codeRead32 {s : State} {a : Nat} {v : Word} (h : s.codeRead32 a = .ok v) :
    takeImmediate (s.code.drop a) = some (v, s.code.drop (a + 4)) := by
  obtain ⟨b0, b1, b2, b3, h0, h1, h2, h3, rfl⟩ := State.codeRead32_eq_ok.mp h
  rw [State.drop_of_codeRead8 h0, State.drop_of_codeRead8 h1, State.drop_of_codeRead8 h2,
    State.drop_of_codeRead8 h3, takeImmediate]

/-- CodeRead32 faults where fewer than four bytes are left. -/
theorem State.drop_length_of_codeRead32_error {s : State} {a : Nat} {k : Fault}
    (h : s.codeRead32 a = .error k) : (s.code.drop a).length < 4 := by
  by_contra hlen
  rw [List.length_drop] at hlen
  rw [State.codeRead32_inside (by omega)] at h
  cases h

theorem State.fetch_of_encode {s : State} {i : Instr} {rest : List Byte}
    (h : s.code.drop s.ip = encode i ++ rest) : s.fetch = .ok i :=
  State.fetch_of_decode (by rw [h, decode_encode_append])

/-- Settles O9: the byte that CodeRead8 reads is the opcode byte of the decoder, and what CodeRead32 reads
just past it is the immediate. -/
theorem fetchReadsOpcodeThenImmediate : Obligations.FetchReadsOpcodeThenImmediate := by
  intro s opcode hread
  have hcode := State.drop_of_codeRead8 hread
  refine ⟨fun hunknown => ?unknown, fun hop => ⟨fun k herr => ?truncated, fun v hv => ?immediate⟩,
    fun ⟨h, hop⟩ => ?plain⟩
  case unknown => exact State.fetch_of_error (by rw [hcode, decode_unknown _ hunknown])
  case truncated =>
    rw [State.codeRead32_error herr]
    exact State.fetch_of_error
      (by rw [hcode, decode_truncated hop (State.drop_length_of_codeRead32_error herr)])
  case immediate =>
    obtain ⟨i, hbytes, hi, himm⟩ := cons_eq_encode_of_opi hop (State.takeImmediate_of_codeRead32 hv)
    exact ⟨i, State.fetch_of_encode (hcode.trans hbytes), hi, himm⟩
  case plain =>
    obtain ⟨i, hbytes, hi, himm⟩ := cons_eq_encode_of_op (s.code.drop (s.ip + 1)) h hop
    exact ⟨i, State.fetch_of_encode (hcode.trans hbytes), hi, himm⟩

end Sys2Proof.Machine
end

section
/-!
PROOFS. What an instruction does, said once: how it completes, which faults it raises, and that these are
its only two ways to end. Later proofs take an executed instruction apart by `exec_cases` and unfold `exec` no
more.
-/
namespace Sys2Proof.Machine

/-- Instruction `i` completes from `s` in `t`: a constructor for each way an instruction completes. -/
inductive Completes (s : State) : Instr → State → Prop where
  | nop : Completes s .nop { s with ip := s.ip + 1 }
  | push {imm : Word} (room : s.stack.length ≠ s.cfg.stackCap) :
      Completes s (.push imm) { s with stack := imm :: s.stack, ip := s.ip + 5 }
  | pop {v : Word} {rest : List Word} (hs : s.stack = v :: rest) :
      Completes s .pop { s with stack := rest, ip := s.ip + 1 }
  | dup {v : Word} {rest : List Word} (hs : s.stack = v :: rest) (room : s.stack.length ≠ s.cfg.stackCap) :
      Completes s .dup { s with stack := v :: v :: rest, ip := s.ip + 1 }
  | swap {a b : Word} {rest : List Word} (hs : s.stack = a :: b :: rest) :
      Completes s .swap { s with stack := b :: a :: rest, ip := s.ip + 1 }
  | add {a b v : Word} {rest : List Word} (hs : s.stack = b :: a :: rest)
      (hv : alu .add s.overflowQuotient a b = some v) :
      Completes s .add { s with stack := v :: rest, ip := s.ip + 1 }
  | sub {a b v : Word} {rest : List Word} (hs : s.stack = b :: a :: rest)
      (hv : alu .sub s.overflowQuotient a b = some v) :
      Completes s .sub { s with stack := v :: rest, ip := s.ip + 1 }
  | mul {a b v : Word} {rest : List Word} (hs : s.stack = b :: a :: rest)
      (hv : alu .mul s.overflowQuotient a b = some v) :
      Completes s .mul { s with stack := v :: rest, ip := s.ip + 1 }
  | div {a b v : Word} {rest : List Word} (hs : s.stack = b :: a :: rest)
      (hv : alu .div s.overflowQuotient a b = some v) :
      Completes s .div
        { s with
          stack := v :: rest, ip := s.ip + 1, draws := s.draws + if s.drawsQuotient a b then 1 else 0 }
  | jmp {x : Word} (hx : s.targetValid x = true) : Completes s (.jmp x) { s with ip := targetOffset x }
  | jzTaken {x : Word} {rest : List Word} (hs : s.stack = 0 :: rest) (hx : s.targetValid x = true) :
      Completes s (.jz x) { s with stack := rest, ip := targetOffset x }
  | jzUntaken {x v : Word} {rest : List Word} (hs : s.stack = v :: rest) (hv : v ≠ 0)
      (hx : s.cfg.validateUntakenTarget = true → s.targetValid x = true) :
      Completes s (.jz x) { s with stack := rest, ip := s.ip + 5 }
  | jnzTaken {x v : Word} {rest : List Word} (hs : s.stack = v :: rest) (hv : v ≠ 0)
      (hx : s.targetValid x = true) : Completes s (.jnz x) { s with stack := rest, ip := targetOffset x }
  | jnzUntaken {x : Word} {rest : List Word} (hs : s.stack = 0 :: rest)
      (hx : s.cfg.validateUntakenTarget = true → s.targetValid x = true) :
      Completes s (.jnz x) { s with stack := rest, ip := s.ip + 5 }
  | call {x : Word} (room : s.calls.length ≠ s.cfg.callCap) (hx : s.targetValid x = true) :
      Completes s (.call x)
        { s with
          calls := { returnAddress := s.ip + 5, frameMarker := s.stack.length } :: s.calls
          ip := targetOffset x }
  | ret {f : Frame} {rest : List Frame} (hc : s.calls = f :: rest) :
      Completes s .ret { s with calls := rest, ip := f.returnAddress }
  | load {addr : Word} {rest : List Word} (hs : s.stack = addr :: rest) (ha : s.addrValid addr = true) :
      Completes s .load { s with stack := s.mem.read (cellIndex addr) :: rest, ip := s.ip + 1 }
  | store {addr v : Word} {rest : List Word} (hs : s.stack = addr :: v :: rest)
      (ha : s.addrValid addr = true) :
      Completes s .store { s with stack := rest, mem := s.mem.write (cellIndex addr) v, ip := s.ip + 1 }
  | print {v : Word} {rest : List Word} (hs : s.stack = v :: rest) :
      Completes s .print { s with stack := rest, out := s.out ++ [v], ip := s.ip + 1 }
  | stop : Completes s .stop { s with ip := s.ip + 1, running := false, status := .halted .normal }

/-- Instruction `i` raises the fault `k` in `s`: a constructor for each cause of a fault
(60_exceptions.md R180), under the conditions that R186 puts before it. -/
inductive Raises (s : State) : Instr → Fault → Prop where
  | underflow {i : Instr} (hs : s.stack.length < stackReads i) : Raises s i .stackUnderflow
  | pushFull {imm : Word} (full : s.stack.length = s.cfg.stackCap) : Raises s (.push imm) .stackOverflow
  | dupFull {v : Word} {rest : List Word} (hs : s.stack = v :: rest)
      (full : s.stack.length = s.cfg.stackCap) : Raises s .dup .stackOverflow
  | divByZero {a : Word} {rest : List Word} (hs : s.stack = 0 :: a :: rest) :
      Raises s .div .divisionByZero
  | jmp {x : Word} (hx : s.targetValid x = false) : Raises s (.jmp x) .invalidJumpTarget
  | jz {x v : Word} {rest : List Word} (hs : s.stack = v :: rest)
      (hv : v = 0 ∨ s.cfg.validateUntakenTarget = true) (hx : s.targetValid x = false) :
      Raises s (.jz x) .invalidJumpTarget
  | jnz {x v : Word} {rest : List Word} (hs : s.stack = v :: rest)
      (hv : v ≠ 0 ∨ s.cfg.validateUntakenTarget = true) (hx : s.targetValid x = false) :
      Raises s (.jnz x) .invalidJumpTarget
  | callFull {x : Word} (full : s.calls.length = s.cfg.callCap) : Raises s (.call x) .callStackOverflow
  | callTarget {x : Word} (room : s.calls.length ≠ s.cfg.callCap) (hx : s.targetValid x = false) :
      Raises s (.call x) .invalidJumpTarget
  | ret (hc : s.calls = []) : Raises s .ret .callStackUnderflow
  | load {addr : Word} {rest : List Word} (hs : s.stack = addr :: rest) (ha : s.addrValid addr = false) :
      Raises s .load .invalidMemoryAddress
  | store {addr v : Word} {rest : List Word} (hs : s.stack = addr :: v :: rest)
      (ha : s.addrValid addr = false) : Raises s .store .invalidMemoryAddress

/-! ### The conditional transfer, taken and not taken -/

theorem State.branch_taken {s : State} {x : Word} (next : Nat) (h : s.targetValid x = true) :
    s.branch true x next = .ok { s with ip := targetOffset x } :=
  State.jumpTo_eq_ok.mpr ⟨h, rfl⟩

theorem State.branch_untaken {s : State} {x : Word} (next : Nat)
    (h : s.cfg.validateUntakenTarget = true → s.targetValid x = true) :
    s.branch false x next = .ok { s with ip := next } :=
  State.fallThrough_eq_ok h

theorem State.branch_invalid {s : State} {taken : Bool} {x : Word} (next : Nat)
    (ht : taken = true ∨ s.cfg.validateUntakenTarget = true) (h : s.targetValid x = false) :
    s.branch taken x next = .error .invalidJumpTarget := by
  cases taken with
  | true => exact State.jumpTo_eq_error.mpr ⟨h, rfl⟩
  | false => exact State.fallThrough_eq_error (ht.resolve_left Bool.false_ne_true) h

/-- A transfer neither reads nor writes the operand stack. -/
theorem State.branch_withStack (s : State) (l : List Word) (taken : Bool) (x : Word) (next : Nat) :
    { s with stack := l }.branch taken x next =
      (s.branch taken x next >>= fun t => .ok { t with stack := l }) := by
  have hx : { s with stack := l }.targetValid x = s.targetValid x := rfl
  unfold State.branch State.jumpTo State.fallThrough
  rw [hx]
  split_ifs <;> rfl

/-- A transfer neither reads nor writes the call stack. -/
theorem State.jumpTo_withCalls (s : State) (l : List Frame) (x : Word) :
    { s with calls := l }.jumpTo x = (s.jumpTo x >>= fun t => .ok { t with calls := l }) := by
  have hx : { s with calls := l }.targetValid x = s.targetValid x := rfl
  unfold State.jumpTo
  rw [hx]
  split_ifs <;> rfl

/-! ### The operands an instruction finds -/

theorem exists_top {l : List Word} (h : ¬l.length < 1) : ∃ v rest, l = v :: rest :=
  List.exists_cons_of_length_pos (Nat.le_of_not_lt h)

theorem exists_top_two {l : List Word} (h : ¬l.length < 2) : ∃ b a rest, l = b :: a :: rest := by
  match l with
  | [] => exact absurd (by simp) h
  | [_] => exact absurd (by simp) h
  | b :: a :: rest => exact ⟨b, a, rest, rfl⟩

/-! ### Instructions past their first test -/

theorem exec_push (s : State) (imm : Word) :
    exec (.push imm) s = s.commit (s.push imm >>= fun t => .ok { t with ip := s.ip + 5 }) := rfl

theorem exec_dup {s : State} {v : Word} {rest : List Word} (hs : s.stack = v :: rest) :
    exec .dup s = s.commit (s.push v >>= fun t => .ok { t with ip := s.ip + 1 }) := by
  rw [← State.dup_cons hs]
  rfl

theorem exec_div {s : State} {a b : Word} {rest : List Word} (hs : s.stack = b :: a :: rest) :
    exec .div s = s.commit (s.binary .div >>= fun t => .ok (t.countDraw a b)) := by
  simp [exec, execDiv, State.pop2_cons hs]

theorem exec_jmp (s : State) (x : Word) : exec (.jmp x) s = s.commit (s.jumpTo x) := rfl

theorem exec_jz {s : State} {v : Word} {rest : List Word} (x : Word) (hs : s.stack = v :: rest) :
    exec (.jz x) s = s.commit
      (s.branch (zeroTest v) x (s.ip + 5) >>= fun t => .ok { t with stack := rest }) := by
  rw [← State.branch_withStack]
  simp [exec, execJz, State.pop_cons hs]

theorem exec_jnz {s : State} {v : Word} {rest : List Word} (x : Word) (hs : s.stack = v :: rest) :
    exec (.jnz x) s = s.commit
      (s.branch (!zeroTest v) x (s.ip + 5) >>= fun t => .ok { t with stack := rest }) := by
  rw [← State.branch_withStack]
  simp [exec, execJnz, State.pop_cons hs]

theorem exec_call {s : State} (x : Word) (room : s.calls.length ≠ s.cfg.callCap) :
    exec (.call x) s = s.commit
      (s.jumpTo x >>= fun t =>
        .ok { t with calls := { returnAddress := s.ip + 5, frameMarker := s.stack.length } :: s.calls }) := by
  rw [← State.jumpTo_withCalls]
  simp [exec, execCall, State.pushFrame_eq_ok.mpr ⟨room, rfl⟩]

theorem exec_load {s : State} {addr : Word} {rest : List Word} (hs : s.stack = addr :: rest) :
    exec .load s = s.commit
      (s.memRead addr >>= fun v => .ok { s with stack := v :: rest, ip := s.ip + 1 }) := by
  simp [exec, execLoad, State.pop_cons hs]
  rfl

theorem exec_store {s : State} {addr v : Word} {rest : List Word} (hs : s.stack = addr :: v :: rest) :
    exec .store s = s.commit
      (s.memWrite addr v >>= fun t => .ok { t with stack := rest, ip := s.ip + 1 }) := by
  by_cases ha : s.addrValid addr = true
  · simp [exec, execStore, State.pop2_cons hs, State.memWrite, State.addrValid_congr (s := s), ha,
      State.setIp_eq]
  · simp [exec, execStore, State.pop2_cons hs, State.memWrite, State.addrValid_congr (s := s), ha]

/-! ### The two ways an instruction ends -/

theorem exec_of_completes {s t : State} {i : Instr} (h : Completes s i t) : exec i s = .next t := by
  cases h with
  | nop => rfl
  | push room => rw [exec_push, State.push_eq_ok.mpr ⟨room, rfl⟩, ok_bind, State.commit_ok]
  | pop hs => simp [exec, execPop, State.pop_cons hs, State.setIp_eq]
  | dup hs room => rw [exec_dup hs, State.push_eq_ok.mpr ⟨room, rfl⟩, ok_bind, State.commit_ok, hs]
  | swap hs => simp [exec, execSwap, State.swap_cons hs, State.setIp_eq]
  | add hs hv => exact (exec_add s).trans (State.commit_binary hs hv)
  | sub hs hv => exact (exec_sub s).trans (State.commit_binary hs hv)
  | mul hs hv => exact (exec_mul s).trans (State.commit_binary hs hv)
  | div hs hv =>
    rw [exec_div hs, State.binary_cons hs hv, ok_bind, State.commit_ok, State.countDraw_eq]
    rfl
  | jmp hx => rw [exec_jmp, State.jumpTo_eq_ok.mpr ⟨hx, rfl⟩, State.commit_ok]
  | jzTaken hs hx =>
    rw [exec_jz _ hs, zeroTest_iff.mpr rfl, State.branch_taken _ hx, ok_bind, State.commit_ok]
  | jzUntaken hs hv hx =>
    rw [exec_jz _ hs, zeroTest_eq_false_iff.mpr hv, State.branch_untaken _ hx, ok_bind, State.commit_ok]
  | jnzTaken hs hv hx =>
    rw [exec_jnz _ hs, zeroTest_eq_false_iff.mpr hv, Bool.not_false, State.branch_taken _ hx,
      ok_bind, State.commit_ok]
  | jnzUntaken hs hx =>
    rw [exec_jnz _ hs, zeroTest_iff.mpr rfl, Bool.not_true, State.branch_untaken _ hx, ok_bind,
      State.commit_ok]
  | call room hx => rw [exec_call _ room, State.jumpTo_eq_ok.mpr ⟨hx, rfl⟩, ok_bind, State.commit_ok]
  | ret hc => simp [exec, execRet, State.popFrame_cons hc, State.setIp_eq]
  | load hs ha => rw [exec_load hs, State.memRead_valid ha, ok_bind, State.commit_ok]
  | store hs ha => rw [exec_store hs, State.memWrite_valid _ ha, ok_bind, State.commit_ok]
  | print hs => simp [exec, execPrint, State.pop_cons hs, State.setIp_eq, State.emit_eq]
  | stop => rfl

/-- Missing operands are found before anything else is tested (60_exceptions.md R186). -/
theorem exec_underflow {s : State} {i : Instr} (h : s.stack.length < stackReads i) :
    exec i s = .next (s.raise .stackUnderflow) := by
  have empty (h1 : s.stack.length < 1) : s.stack = [] := List.length_eq_zero_iff.mp (Nat.lt_one_iff.mp h1)
  cases i with
  | nop | push | jmp | call | ret | stop => exact absurd h (Nat.not_lt_zero _)
  | pop => simp [exec, execPop, State.pop_nil (empty h)]
  | dup => simp [exec, execDup, State.dup_nil (empty h)]
  | swap => simp [exec, execSwap, State.swap_short h]
  | add => rw [exec_add, State.binary_short h, State.commit_error]
  | sub => rw [exec_sub, State.binary_short h, State.commit_error]
  | mul => rw [exec_mul, State.binary_short h, State.commit_error]
  | div => simp [exec, execDiv, State.pop2_short h]
  | jz => simp [exec, execJz, State.pop_nil (empty h)]
  | jnz => simp [exec, execJnz, State.pop_nil (empty h)]
  | load => simp [exec, execLoad, State.pop_nil (empty h)]
  | store => simp [exec, execStore, State.pop2_short h]
  | print => simp [exec, execPrint, State.pop_nil (empty h)]

theorem exec_of_raises {s : State} {i : Instr} {k : Fault} (h : Raises s i k) :
    exec i s = .next (s.raise k) := by
  cases h with
  | underflow hs => exact exec_underflow hs
  | pushFull full => rw [exec_push, State.push_eq_error.mpr ⟨full, rfl⟩, error_bind, State.commit_error]
  | dupFull hs full =>
    rw [exec_dup hs, State.push_eq_error.mpr ⟨full, rfl⟩, error_bind, State.commit_error]
  | divByZero hs =>
    rw [exec_div hs, State.binary_divByZero hs (alu_div_zero _ _), error_bind, State.commit_error]
  | jmp hx => rw [exec_jmp, State.jumpTo_eq_error.mpr ⟨hx, rfl⟩, State.commit_error]
  | jz hs hv hx =>
    rw [exec_jz _ hs, State.branch_invalid _ (hv.imp_left zeroTest_iff.mpr) hx, error_bind,
      State.commit_error]
  | @jnz _ v _ hs hv hx =>
    have taken : v ≠ 0 → (!zeroTest v) = true := fun h => by rw [zeroTest_eq_false_iff.mpr h]; rfl
    rw [exec_jnz _ hs, State.branch_invalid _ (hv.imp_left taken) hx, error_bind, State.commit_error]
  | callFull full => simp [exec, execCall, State.pushFrame_eq_error.mpr ⟨full, rfl⟩]
  | callTarget room hx => 
    rw [exec_call _ room, State.jumpTo_eq_error.mpr ⟨hx, rfl⟩, error_bind, State.commit_error]
  | ret hc => simp [exec, execRet, State.popFrame_nil hc]
  | load hs ha => rw [exec_load hs, State.memRead_eq_error.mpr ⟨ha, rfl⟩, error_bind, State.commit_error]
  | store hs ha => rw [exec_store hs, State.memWrite_eq_error.mpr ⟨ha, rfl⟩, error_bind, State.commit_error]

/-- In every state an instruction completes or raises a fault. -/
theorem completes_or_raises (i : Instr) (s : State) : (∃ t, Completes s i t) ∨ ∃ k, Raises s i k := by
  by_cases hlen : s.stack.length < stackReads i
  · exact .inr ⟨_, .underflow hlen⟩
  cases i with
  | nop => exact .inl ⟨_, .nop⟩
  | push imm =>
    by_cases full : s.stack.length = s.cfg.stackCap
    · exact .inr ⟨_, .pushFull full⟩
    · exact .inl ⟨_, .push full⟩
  | pop =>
    obtain ⟨v, rest, hs⟩ := exists_top hlen
    exact .inl ⟨_, .pop hs⟩
  | dup =>
    obtain ⟨v, rest, hs⟩ := exists_top hlen
    by_cases full : s.stack.length = s.cfg.stackCap
    · exact .inr ⟨_, .dupFull hs full⟩
    · exact .inl ⟨_, .dup hs full⟩
  | swap =>
    obtain ⟨a, b, rest, hs⟩ := exists_top_two hlen
    exact .inl ⟨_, .swap hs⟩
  | add =>
    obtain ⟨b, a, rest, hs⟩ := exists_top_two hlen
    exact .inl ⟨_, .add hs (alu_add _ a b)⟩
  | sub =>
    obtain ⟨b, a, rest, hs⟩ := exists_top_two hlen
    exact .inl ⟨_, .sub hs (alu_sub _ a b)⟩
  | mul =>
    obtain ⟨b, a, rest, hs⟩ := exists_top_two hlen
    exact .inl ⟨_, .mul hs (alu_mul _ a b)⟩
  | div =>
    obtain ⟨b, a, rest, hs⟩ := exists_top_two hlen
    cases hv : alu .div s.overflowQuotient a b with
    | some v => exact .inl ⟨_, .div hs hv⟩
    | none =>
      obtain rfl : b = 0 := zeroTest_iff.mp (alu_eq_none_iff.mp hv)
      exact .inr ⟨_, .divByZero hs⟩
  | jmp x =>
    cases hx : s.targetValid x with
    | true => exact .inl ⟨_, .jmp hx⟩
    | false => exact .inr ⟨_, .jmp hx⟩
  | jz x =>
    obtain ⟨v, rest, hs⟩ := exists_top hlen
    by_cases hfault : (v = 0 ∨ s.cfg.validateUntakenTarget = true) ∧ s.targetValid x = false
    · exact .inr ⟨_, .jz hs hfault.1 hfault.2⟩
    rw [not_and, Bool.not_eq_false] at hfault
    by_cases hv : v = 0
    · subst hv
      exact .inl ⟨_, .jzTaken hs (hfault (.inl rfl))⟩
    · exact .inl ⟨_, .jzUntaken hs hv fun hc => hfault (.inr hc)⟩
  | jnz x =>
    obtain ⟨v, rest, hs⟩ := exists_top hlen
    by_cases hfault : (v ≠ 0 ∨ s.cfg.validateUntakenTarget = true) ∧ s.targetValid x = false
    · exact .inr ⟨_, .jnz hs hfault.1 hfault.2⟩
    rw [not_and, Bool.not_eq_false] at hfault
    by_cases hv : v = 0
    · subst hv
      exact .inl ⟨_, .jnzUntaken hs fun hc => hfault (.inr hc)⟩
    · exact .inl ⟨_, .jnzTaken hs hv (hfault (.inl hv))⟩
  | call x =>
    by_cases full : s.calls.length = s.cfg.callCap
    · exact .inr ⟨_, .callFull full⟩
    cases hx : s.targetValid x with
    | true => exact .inl ⟨_, .call full hx⟩
    | false => exact .inr ⟨_, .callTarget full hx⟩
  | ret =>
    cases hc : s.calls with
    | nil => exact .inr ⟨_, .ret hc⟩
    | cons f rest => exact .inl ⟨_, .ret hc⟩
  | load =>
    obtain ⟨addr, rest, hs⟩ := exists_top hlen
    cases ha : s.addrValid addr with
    | true => exact .inl ⟨_, .load hs ha⟩
    | false => exact .inr ⟨_, .load hs ha⟩
  | store =>
    obtain ⟨addr, v, rest, hs⟩ := exists_top_two hlen
    cases ha : s.addrValid addr with
    | true => exact .inl ⟨_, .store hs ha⟩
    | false => exact .inr ⟨_, .store hs ha⟩
  | print =>
    obtain ⟨v, rest, hs⟩ := exists_top hlen
    exact .inl ⟨_, .print hs⟩
  | stop => exact .inl ⟨_, .stop⟩

theorem exec_next (i : Instr) (s : State) : ∃ t, exec i s = .next t := by
  obtain ⟨t, h⟩ | ⟨k, h⟩ := completes_or_raises i s
  · exact ⟨t, exec_of_completes h⟩
  · exact ⟨s.raise k, exec_of_raises h⟩

/-- Everything an executed instruction can have done. -/
theorem exec_cases {i : Instr} {s t : State} (h : exec i s = .next t) :
    Completes s i t ∨ ∃ k, Raises s i k ∧ t = s.raise k := by
  obtain ⟨u, hu⟩ | ⟨k, hk⟩ := completes_or_raises i s
  · rw [exec_of_completes hu] at h
    cases h
    exact .inl hu
  · rw [exec_of_raises hk] at h
    cases h
    exact .inr ⟨k, hk, rfl⟩

end Sys2Proof.Machine
end

section
/-!
PROOFS. What each instruction writes and leaves alone, by the ways it can end (10_state.md R10, R11, R12, R23,
R24, R30; 20_memory.md R48; 60_exceptions.md R180, R185).
-/
namespace Sys2Proof.Machine

section
variable {s t : State} {i : Instr}

/-! ### What no completed instruction writes -/

theorem Completes.cfg_eq (h : Completes s i t) : t.cfg = s.cfg := by cases h <;> rfl

theorem Completes.code_eq (h : Completes s i t) : t.code = s.code := by cases h <;> rfl

theorem Completes.request_eq (h : Completes s i t) : t.request = s.request := by cases h <;> rfl

/-! ### What one or two instructions write -/

theorem Completes.calls_eq (h : Completes s i t) (hcall : ∀ x, i ≠ .call x) (hret : i ≠ .ret) :
    t.calls = s.calls := by
  cases h with
  | call => exact absurd rfl (hcall _)
  | ret => exact absurd rfl hret
  | _ => rfl

theorem Completes.mem_eq (h : Completes s i t) (hstore : i ≠ .store) : t.mem = s.mem := by
  cases h with
  | store => exact absurd rfl hstore
  | _ => rfl

theorem Completes.draws_eq (h : Completes s i t) (hdiv : i ≠ .div) : t.draws = s.draws := by
  cases h with
  | div => exact absurd rfl hdiv
  | _ => rfl

/-- PRINT appends the top of stack to the output, and no other instruction writes it. -/
theorem Completes.out_cases (h : Completes s i t) :
    (i ≠ .print ∧ t.out = s.out) ∨
      (i = .print ∧ ∃ v rest, s.stack = v :: rest ∧ t.out = s.out ++ [v]) := by
  cases h with
  | print hs => exact .inr ⟨rfl, _, _, hs, rfl⟩
  | _ => exact .inl ⟨nofun, rfl⟩

/-- STOP halts Normal, and no other instruction writes the status or the flag. -/
theorem Completes.status_cases (h : Completes s i t) :
    (i ≠ .stop ∧ t.status = s.status ∧ t.running = s.running) ∨
      (i = .stop ∧ t.status = .halted .normal ∧ t.running = false) := by
  cases h with
  | stop => exact .inr ⟨rfl, rfl, rfl⟩
  | _ => exact .inl ⟨nofun, rfl, rfl⟩

/-- A completed instruction never leaves a running core halted with a fault. -/
theorem Completes.status_ne_fault (h : Completes s i t) (hrun : s.status = .running) (k : Fault) :
    t.status ≠ .halted (.fault k) := by
  obtain ⟨-, hst, -⟩ | ⟨-, hst, -⟩ := h.status_cases
  · rw [hst, hrun]
    exact nofun
  · rw [hst]
    exact nofun

/-- The entries below the operands stay. -/
theorem Completes.stack_drop (h : Completes s i t) :
    stackReads i ≤ s.stack.length ∧ stackWrites i ≤ t.stack.length ∧
      t.stack.drop (stackWrites i) = s.stack.drop (stackReads i) := by
  cases h with
  | nop | jmp | call | ret | stop | push => exact ⟨Nat.zero_le _, by simp [stackWrites], rfl⟩
  | pop hs | dup hs | swap hs | add hs | sub hs | mul hs | div hs | jzTaken hs | jzUntaken hs | jnzTaken hs
  | jnzUntaken hs | load hs | store hs | print hs => simp [stackReads, stackWrites, hs]

/-- The offset that a valid target names is that target. -/
theorem State.targetOffset_eq {x : Word} (h : s.targetValid x = true) :
    0 ≤ x.toInt ∧ x.toInt ≤ s.code.length ∧ (targetOffset x : Int) = x.toInt := by
  obtain ⟨hlo, hhi⟩ := State.targetValid_iff.mp h
  exact ⟨hlo, hhi, Int.toNat_of_nonneg hlo⟩

/-- The places where `ip` stands after a completed instruction. -/
theorem Completes.ip_cases (h : Completes s i t) :
    (t.ip = s.ip + i.length ∧ i ≠ .ret ∧ (∀ x, i ≠ .jmp x) ∧ ∀ x, i ≠ .call x) ∨
      (∃ x, i.target? = some x ∧ 0 ≤ x.toInt ∧ x.toInt ≤ s.code.length ∧ (t.ip : Int) = x.toInt) ∨
      (i = .ret ∧ ∃ f rest, s.calls = f :: rest ∧ t.ip = f.returnAddress) := by
  cases h with
  | jmp hx | jzTaken _ hx | jnzTaken _ _ hx | call _ hx =>
    exact .inr (.inl ⟨_, rfl, State.targetOffset_eq hx⟩)
  | ret hc => exact .inr (.inr ⟨rfl, _, _, hc, rfl⟩)
  | _ => exact .inl ⟨rfl, nofun, nofun, nofun⟩

/-! ### The causes of a fault -/

theorem stackUnderflow_mem_faultsOf (h : 0 < stackReads i) : Fault.stackUnderflow ∈ faultsOf i := by
  cases i with
  | nop | push | jmp | call | ret | stop => exact absurd h (Nat.lt_irrefl 0)
  | _ => simp [faultsOf]

theorem Raises.mem_faultsOf {k : Fault} (h : Raises s i k) : k ∈ faultsOf i := by
  cases h with
  | underflow hs => exact stackUnderflow_mem_faultsOf (Nat.zero_lt_of_lt hs)
  | _ => simp [faultsOf]

/-- PRINT faults on an empty stack alone. -/
theorem Raises.stack_eq_nil_of_print {k : Fault} (h : Raises s .print k) : s.stack = [] := by
  cases h with
  | underflow hs => exact List.length_eq_zero_iff.mp (Nat.lt_one_iff.mp hs)

/-! ### Cells of the data memory -/

theorem Completes.read_eq (h : Completes s i t) (hstore : i ≠ .store) (a : Nat) :
    t.mem.read a = s.mem.read a := by
  rw [h.mem_eq hstore]

end

/-- Settles O48: STORE alone writes the memory, and a fault leaves it. -/
theorem onlyStoreChangesMemory : Obligations.OnlyStoreChangesMemory := by
  intro i s t hstore h a
  obtain hc | ⟨k, -, rfl⟩ := exec_cases h
  · exact hc.read_eq hstore a
  · rfl

theorem exec_store_valid {s : State} {addr v : Word} {rest : List Word} (hs : s.stack = addr :: v :: rest)
    (ha : s.addrValid addr = true) :
    exec .store s = .next
      { s with stack := rest, mem := s.mem.write (cellIndex addr) v, ip := s.ip + 1 } :=
  exec_of_completes (.store hs ha)

/-- Settles O49: a STORE with two operands and a valid address writes one cell of a canonical memory; in the
other cases it raises a fault. -/
theorem storeChangesOneCell : Obligations.StoreChangesOneCell := by
  intro s t hwf h
  refine ⟨fun addr v rest hs => ⟨fun ha => ?valid, fun ha a => ?invalid⟩, fun hlen a => ?short⟩
  case valid =>
    rw [exec_store_valid hs ha] at h
    cases h
    exact ⟨Memory.read_write_same hwf _ v, fun a hne => Memory.read_write_other hwf v hne⟩
  case invalid =>
    rw [exec_of_raises (.store hs ha)] at h
    cases h
    rfl
  case short =>
    rw [exec_of_raises (.underflow hlen)] at h
    cases h
    rfl

/-- Settles O50: a completed instruction keeps the entries below its operands; otherwise it raised a fault. -/
theorem stackChangesOnlyAtItsTop : Obligations.StackChangesOnlyAtItsTop := by
  intro i s t h
  obtain hc | ⟨k, -, ht⟩ := exec_cases h
  · exact .inr hc.stack_drop
  · exact .inl ⟨k, ht⟩

/-- Settles O51: the frame of a completed instruction, element by element; a fault writes status and `running`
alone. -/
theorem eachElementHasItsOwnWriters : Obligations.EachElementHasItsOwnWriters := by
  intro i s t h
  obtain hc | ⟨k, -, rfl⟩ := exec_cases h
  · refine ⟨hc.cfg_eq, hc.code_eq, hc.request_eq, hc.calls_eq, fun hprint => ?out, hc.draws_eq,
      fun hstop => .inl ?status⟩
    case out =>
      obtain ⟨-, hout⟩ | ⟨hi, -⟩ := hc.out_cases
      · exact hout
      · exact absurd hi hprint
    case status =>
      obtain ⟨-, hst⟩ | ⟨hi, -⟩ := hc.status_cases
      · exact hst
      · exact absurd hi hstop
  · exact ⟨rfl, rfl, rfl, fun _ _ => rfl, fun _ => rfl, fun _ => rfl, fun _ => .inr ⟨k, rfl⟩⟩

/-- Settles O52: the places of a completed instruction, and a fault. -/
theorem instructionPointerGoesNowhereElse : Obligations.InstructionPointerGoesNowhereElse := by
  intro i s t h
  obtain hc | ⟨k, -, ht⟩ := exec_cases h
  · exact .inr hc.ip_cases
  · exact .inl ⟨k, ht⟩

/-- The fault that an instruction left a running core with is one it raised. -/
theorem raises_of_exec_fault {i : Instr} {s t : State} {k : Fault} (hrun : s.status = .running)
    (h : exec i s = .next t) (hk : t.status = .halted (.fault k)) : Raises s i k ∧ t = s.raise k := by
  obtain hc | ⟨k', hr, rfl⟩ := exec_cases h
  · exact absurd hk (hc.status_ne_fault hrun k)
  · cases hk
    exact ⟨hr, rfl⟩

/-- Settles O53: the fault was raised, on the state the instruction began in. -/
theorem faultsArePrecise : Obligations.FaultsArePrecise :=
  fun _ _ _ _ hrun h hk => (raises_of_exec_fault hrun h hk).2

/-- Settles O54: each cause of a fault stands in the table. -/
theorem instructionsRaiseTheirOwnFaultsAlone : Obligations.InstructionsRaiseTheirOwnFaultsAlone :=
  fun _ _ _ _ hrun h hk => (raises_of_exec_fault hrun h hk).1.mem_faultsOf

/-! ### The output port -/

theorem outputTransfer_of_eq {s t : State} (h : t.out = s.out) : outputTransfer s t = none := by
  rw [outputTransfer, h, List.getElem?_eq_none (le_refl _)]

theorem outputTransfer_of_append {s t : State} {v : Word} (h : t.out = s.out ++ [v]) :
    outputTransfer s t = some v := by
  rw [outputTransfer, h, List.getElem?_concat_length]

/-- Settles O55: a completed PRINT appends one value; nothing else writes the output, a fault neither, and
PRINT faults on an empty stack alone. -/
theorem outputPortCarriesThePrintedValue : Obligations.OutputPortCarriesThePrintedValue := by
  intro i s t h
  obtain hc | ⟨k, hr, rfl⟩ := exec_cases h
  · obtain ⟨hprint, hout⟩ | ⟨hi, v, rest, hs, hout⟩ := hc.out_cases
    · exact .inl ⟨outputTransfer_of_eq hout, hout, fun hi => absurd hi hprint⟩
    · exact .inr ⟨hi, v, rest, hs, outputTransfer_of_append hout, hout⟩
  · refine .inl ⟨outputTransfer_of_eq rfl, rfl, fun hi => ?_⟩
    subst hi
    exact hr.stack_eq_nil_of_print

end Sys2Proof.Machine
end

section
/-!
PROOFS. What each instruction does, one rule of the spec at a time: each clause is one way of `Completes` or
one cause of `Raises`.
-/
namespace Sys2Proof.Machine

/-! ### NOP, STOP and the stack instructions (40_interpreter_loop.md, 41_stack_ops.md) -/

/-- Settles O24: NOP completes in every state. -/
theorem nopOnlyAdvances : Obligations.NopOnlyAdvances := fun _ => exec_of_completes .nop

/-- Settles O25: STOP completes in every state. -/
theorem stopHaltsNormal : Obligations.StopHaltsNormal := fun _ => exec_of_completes .stop

/-- Settles O26: with room PUSH completes, on a full stack it raises. -/
theorem pushPutsTheImmediateOnTop : Obligations.PushPutsTheImmediateOnTop :=
  fun _ _ => ⟨fun room => exec_of_completes (.push room), fun full => exec_of_raises (.pushFull full)⟩

/-- Settles O27: with an operand POP completes. -/
theorem popDiscardsTheTop : Obligations.PopDiscardsTheTop := fun _ _ _ hs => exec_of_completes (.pop hs)

/-- Settles O28: with an operand and room DUP completes, on a full stack it raises. -/
theorem dupCopiesTheTop : Obligations.DupCopiesTheTop :=
  fun _ _ _ hs =>
    ⟨fun room => exec_of_completes (.dup hs room), fun full => exec_of_raises (.dupFull hs full)⟩

/-- Settles O29: with two operands SWAP completes. -/
theorem swapExchangesTheTopTwo : Obligations.SwapExchangesTheTopTwo :=
  fun _ _ _ _ hs => exec_of_completes (.swap hs)

/-! ### DIV (42_alu.md R117) -/

theorem State.drawsQuotient_eq_false {s : State} {a b : Word}
    (h : s.cfg.divOverflow = .wrap ∨ divOverflows a b = false) : s.drawsQuotient a b = false := by
  unfold State.drawsQuotient
  obtain h | h := h <;> simp [h]

/-- A division that draws no free value. -/
theorem exec_div_no_draw {s : State} {a b v : Word} {rest : List Word} (hs : s.stack = b :: a :: rest)
    (hv : alu .div s.overflowQuotient a b = some v) (hdraw : s.drawsQuotient a b = false) :
    exec .div s = .next { s with stack := v :: rest, ip := s.ip + 1 } := by
  rw [exec_of_completes (.div hs hv), hdraw]
  rfl

theorem exec_div_draw {s : State} {a b v : Word} {rest : List Word} (hs : s.stack = b :: a :: rest)
    (hv : alu .div s.overflowQuotient a b = some v) (hdraw : s.drawsQuotient a b = true) :
    exec .div s = .next { s with stack := v :: rest, ip := s.ip + 1, draws := s.draws + 1 } := by
  rw [exec_of_completes (.div hs hv), hdraw, if_pos rfl]

theorem State.overflowQuotient_wrap {s : State} (h : s.cfg.divOverflow = .wrap) :
    s.overflowQuotient = minI32 := by
  rw [State.overflowQuotient, h]
  rfl

theorem State.overflowQuotient_draw {s : State} (h : s.cfg.divOverflow = .faultFreeAny) :
    s.overflowQuotient = Config.freeWord s.draws := by
  rw [State.overflowQuotient, h]

/-- A division by a divisor other than 0 whose exact quotient is an i32 truncates it. -/
theorem exec_div_exact {s : State} {a b : Word} {rest : List Word} (hs : s.stack = b :: a :: rest)
    (hb : b ≠ 0) (hover : ¬(a = minI32 ∧ b = -1)) :
    exec .div s = .next { s with stack := wrap32 (tdiv a.toInt b.toInt) :: rest, ip := s.ip + 1 } := by
  have hno : divOverflows a b = false := decide_eq_false hover
  exact exec_div_no_draw hs (alu_div hb hno) (State.drawsQuotient_eq_false (.inr hno))

/-- Settles O31: by the ALU's result in each of the four cases, and whether it is a draw. -/
theorem divTruncatesOrRaises : Obligations.DivTruncatesOrRaises := by
  intro s a b rest hs
  refine ⟨?zero, ?wrap, ?draw, fun ⟨hb, hover⟩ => exec_div_exact hs hb hover⟩
  case zero =>
    rintro rfl
    exact exec_of_raises (.divByZero hs)
  case wrap =>
    rintro ⟨rfl, rfl, hcfg⟩
    rw [← State.overflowQuotient_wrap hcfg]
    exact exec_div_no_draw hs (alu_div_overflow _) (State.drawsQuotient_eq_false (.inl hcfg))
  case draw =>
    rintro ⟨rfl, rfl, hcfg⟩
    rw [← State.overflowQuotient_draw hcfg]
    exact exec_div_draw hs (alu_div_overflow _) (by rw [State.drawsQuotient, hcfg]; decide)

/-! ### Control transfer (43_control_transfer.md) -/

/-- Settles O32: a valid target completes the JMP, any other raises. -/
theorem jmpTransfersOrRaises : Obligations.JmpTransfersOrRaises :=
  fun _ _ =>
    ⟨fun valid => exec_of_completes (.jmp (State.targetValid_iff.mpr valid)),
      fun invalid => exec_of_raises (.jmp (State.targetValid_eq_false invalid))⟩

/-- Settles O33: the taken, the untaken and the faulting JZ. -/
theorem jzPopsAndJumpsOnZero : Obligations.JzPopsAndJumpsOnZero := by
  intro s target v rest hs
  refine ⟨?taken, fun ⟨hv, valid⟩ => ?untaken, fun ⟨hv, invalid⟩ => ?fault⟩
  case taken =>
    rintro ⟨rfl, valid⟩
    exact exec_of_completes (.jzTaken hs (State.targetValid_iff.mpr valid))
  case untaken =>
    exact exec_of_completes (.jzUntaken hs hv fun hc => State.targetValid_iff.mpr (valid hc))
  case fault => exact exec_of_raises (.jz hs hv (State.targetValid_eq_false invalid))

/-- Settles O34: the taken, the untaken and the faulting JNZ. -/
theorem jnzPopsAndJumpsOnNonzero : Obligations.JnzPopsAndJumpsOnNonzero := by
  intro s target v rest hs
  refine ⟨fun ⟨hv, valid⟩ => ?taken, ?untaken, fun ⟨hv, invalid⟩ => ?fault⟩
  case taken => exact exec_of_completes (.jnzTaken hs hv (State.targetValid_iff.mpr valid))
  case untaken =>
    rintro ⟨rfl, valid⟩
    exact exec_of_completes (.jnzUntaken hs fun hc => State.targetValid_iff.mpr (valid hc))
  case fault => exact exec_of_raises (.jnz hs hv (State.targetValid_eq_false invalid))

/-- Settles O35: with room and a valid target CALL completes; a full call stack is found first, then the
target. -/
theorem callSavesAFrameAndJumps : Obligations.CallSavesAFrameAndJumps :=
  fun _ _ =>
    ⟨fun ⟨room, valid⟩ => exec_of_completes (.call room (State.targetValid_iff.mpr valid)),
      fun full => exec_of_raises (.callFull full),
      fun ⟨room, invalid⟩ => exec_of_raises (.callTarget room (State.targetValid_eq_false invalid))⟩

/-- Settles O36: RET completes with an active frame and raises without one. -/
theorem retReturnsToTheSavedAddress : Obligations.RetReturnsToTheSavedAddress :=
  fun _ => ⟨fun _ _ hc => exec_of_completes (.ret hc), fun hc => exec_of_raises (.ret hc)⟩

/-! ### Memory and output (44_memory_ops.md, 45_output.md) -/

/-- Settles O37: a valid address completes the LOAD, any other raises. -/
theorem loadReplacesTheAddressByItsCell : Obligations.LoadReplacesTheAddressByItsCell :=
  fun _ _ _ hs =>
    ⟨fun valid => exec_of_completes (.load hs (State.addrValid_iff.mpr valid)),
      fun invalid => exec_of_raises (.load hs (State.addrValid_eq_false invalid))⟩

/-- Settles O38: a valid address completes the STORE, any other raises. -/
theorem storeWritesTheCellItNames : Obligations.StoreWritesTheCellItNames :=
  fun _ _ _ _ hs =>
    ⟨fun valid => exec_of_completes (.store hs (State.addrValid_iff.mpr valid)),
      fun invalid => exec_of_raises (.store hs (State.addrValid_eq_false invalid))⟩

/-- Settles O39: with an operand PRINT completes. -/
theorem printAppendsTheTopToTheOutput : Obligations.PrintAppendsTheTopToTheOutput :=
  fun _ _ _ hs => exec_of_completes (.print hs)

/-! ### Missing operands (60_exceptions.md R180, R186) -/

/-- Settles O40: six instructions read one entry and six read two; each finds fewer and raises. -/
theorem missingOperandsRaiseStackUnderflow : Obligations.MissingOperandsRaiseStackUnderflow := by
  refine fun s => ⟨fun hempty i target hi => exec_underflow ?one, fun hlen i hi => exec_underflow ?two⟩
  case one =>
    have hreads : stackReads i = 1 := by
      simp only [List.mem_cons, List.not_mem_nil, or_false] at hi
      obtain rfl | rfl | rfl | rfl | rfl | rfl := hi <;> rfl
    omega
  case two =>
    have hreads : ∀ j ∈ [Instr.swap, .add, .sub, .mul, .div, .store], stackReads j = 2 := by decide
    rwa [hreads i hi]

end Sys2Proof.Machine
end

section
/-!
PROOFS. Laws of the arithmetic (42_alu.md R117, R118, R120; 95_test_vectors.md section 2.3) and laws of more
than one instruction (20_memory.md R49, 43_control_transfer.md R134, R135).
-/
namespace Sys2Proof.Machine

/-! ### Truncating division -/

/-- The word of a truncated quotient that is no overflow has exactly that value. -/
theorem toInt_wrap32_tdiv {a b : Word} (h : ¬(a = minI32 ∧ b = -1)) :
    (wrap32 (tdiv a.toInt b.toInt)).toInt = Int.tdiv a.toInt b.toInt := by
  have hne : a ≠ BitVec.intMin 32 ∨ b ≠ -1#32 := not_and_or.mp h
  rw [wrap32, BitVec.toInt_ofInt, tdiv, ← BitVec.toInt_sdiv, BitVec.toInt_sdiv_of_ne_or_ne a b hne]

/-- Truncation rounds toward zero: the quotient's product falls short of the dividend by less than the
divisor. -/
theorem natAbs_tdiv_mul_bounds (a : Int) {b : Int} (hb : b ≠ 0) :
    (Int.tdiv a b * b).natAbs ≤ a.natAbs ∧ a.natAbs < (Int.tdiv a b * b).natAbs + b.natAbs := by
  rw [Int.natAbs_mul, Int.natAbs_tdiv]
  exact ⟨Nat.div_mul_le_self _ _, Nat.lt_div_mul_add (Int.natAbs_pos.mpr hb)⟩

/-- A truncated quotient other than zero has the sign of the product of its operands. -/
theorem tdiv_eq_zero_or_sign (a b : Int) : Int.tdiv a b = 0 ∨ 0 < Int.tdiv a b * (a * b) := by
  by_cases hq : Int.tdiv a b = 0
  · exact .inl hq
  · have ha : a ≠ 0 := fun h => hq (by rw [h, Int.zero_tdiv])
    have hb : b ≠ 0 := fun h => hq (by rw [h, Int.tdiv_zero])
    have hsign : (Int.tdiv a b).sign = (a * b).sign := by
      have hsplit := Int.sign_tdiv a b
      split_ifs at hsplit
      · exact absurd (Int.sign_eq_zero_iff_zero.mp hsplit) hq
      · rw [hsplit, Int.sign_mul]
    refine .inr (Int.sign_eq_one_iff_pos.mp ?_)
    rw [Int.sign_mul, hsign, ← Int.sign_mul]
    exact Int.sign_eq_one_iff_pos.mpr (mul_self_pos.mpr (mul_ne_zero ha hb))

theorem toInt_ne_zero {b : Word} (h : b ≠ 0) : b.toInt ≠ 0 :=
  fun h0 => h (BitVec.toInt_inj.mp h0)

/-- Settles O41: the word left is the exact quotient, which truncation bounds and whose sign it fixes. -/
theorem divQuotientIsBounded : Obligations.DivQuotientIsBounded := by
  intro s a b rest hs hb hover
  refine ⟨_, _, exec_div_exact hs hb hover, rfl, ?_⟩
  rw [toInt_wrap32_tdiv hover]
  obtain ⟨hle, hlt⟩ := natAbs_tdiv_mul_bounds a.toInt (toInt_ne_zero hb)
  exact ⟨hle, hlt, tdiv_eq_zero_or_sign a.toInt b.toInt⟩

/-! ### The functions that no opcode reaches -/

/-- MOD leaves the remainder of truncating division. -/
theorem alu_mod {q a b : Word} (hb : b ≠ 0) : alu .mod q a b = some (a.srem b) := by
  have hrem : a.toInt - tdiv a.toInt b.toInt * b.toInt = (a.srem b).toInt := by
    rw [BitVec.toInt_srem, Int.tmod_def, tdiv, Int.mul_comm]
  have hz : zeroTest b = false := zeroTest_eq_false_iff.mpr hb
  simp only [alu, divByZero, hz, hrem, wrap32_toInt, Bool.false_eq_true, if_false]

theorem alu_mod_zero (q a : Word) : alu .mod q a 0 = none := by simp [alu, divByZero, zeroTest]

/-- The remainder of truncating division has the sign of the dividend or is zero. -/
theorem tmod_mul_self_nonneg (a b : Int) : 0 ≤ Int.tmod a b * a := by
  obtain ha | ha := Int.le_total 0 a
  · exact mul_nonneg (Int.tmod_nonneg b ha) ha
  · have hneg := Int.tmod_nonneg b (Int.neg_nonneg.mpr ha)
    rw [Int.neg_tmod, Int.neg_nonneg] at hneg
    exact mul_nonneg_of_nonpos_of_nonpos hneg ha

theorem truthWord_decide (p : Prop) [Decidable p] : truthWord (decide p) = if p then 1 else 0 := by
  simp [truthWord]

/-- Settles O46: MOD by the remainder of truncating division, the comparisons by their truth words, the
bitwise functions bit by bit. -/
theorem unreachableAluFunctions : Obligations.UnreachableAluFunctions := by
  intro q a b
  refine ⟨?zero, fun hb => ⟨_, alu_mod hb, ?rem, ?lt, ?sign⟩, congrArg some (truthWord_decide _),
    congrArg some (truthWord_decide _), congrArg some (truthWord_decide _),
    congrArg some (truthWord_decide _), congrArg some (truthWord_decide _), ?ne, fun k _ => ?bits⟩
  case zero =>
    rintro rfl
    exact alu_mod_zero q a
  case rem => rw [BitVec.toInt_srem, Int.tmod_def, Int.mul_comm]
  case lt =>
    rw [BitVec.toInt_srem, Int.natAbs_tmod]
    exact Nat.mod_lt _ (Int.natAbs_pos.mpr (toInt_ne_zero hb))
  case sign =>
    rw [BitVec.toInt_srem]
    exact tmod_mul_self_nonneg _ _
  case ne => exact (congrArg some (truthWord_decide _)).trans (congrArg some (ite_not ..))
  case bits =>
    exact ⟨_, _, _, rfl, rfl, rfl, BitVec.getLsbD_and, BitVec.getLsbD_or, BitVec.getLsbD_xor⟩

/-! ### The ALU as a block -/

/-- An instruction that commits a function of the ALU leaves its result or raises its condition. -/
theorem State.commit_binary_drives {s : State} {f : AluFn} {a b : Word} {rest : List Word}
    (hs : s.stack = b :: a :: rest) :
    (∀ v, alu f s.overflowQuotient a b = some v →
      ∃ t, s.commit (s.binary f) = .next t ∧ t.stack = v :: rest ∧ t.ip = s.ip + 1) ∧
    (alu f s.overflowQuotient a b = none →
      s.commit (s.binary f) = .next (s.raise .divisionByZero)) :=
  ⟨fun _ hv => ⟨_, State.commit_binary hs hv, rfl, rfl⟩,
    fun hv => by rw [State.binary_divByZero hs hv, State.commit_error]⟩

/-- Settles O45: ADD, SUB and MUL commit the function that their opcode selects, DIV does so and counts its
draws, and no other opcode selects a function. -/
theorem functionSelectDrivesTheAlu : Obligations.FunctionSelectDrivesTheAlu := by
  refine ⟨fun i f s a b rest hsel hs => ?compute, fun i => ?zero⟩
  case compute =>
    cases i with
    | add | sub | mul =>
      cases hsel
      exact State.commit_binary_drives hs
    | div =>
      cases hsel
      refine ⟨fun v hv => ⟨_, exec_of_completes (.div hs hv), rfl, rfl⟩, fun hv => ?_⟩
      obtain rfl : b = 0 := zeroTest_iff.mp (alu_eq_none_iff.mp hv)
      exact exec_of_raises (.divByZero hs)
    | _ => cases hsel
  case zero =>
    cases i with
    | jz x => exact iff_of_true rfl ⟨x, .inl rfl⟩
    | jnz x => exact iff_of_true rfl ⟨x, .inr rfl⟩
    | _ => exact iff_of_false nofun nofun

/-! ### Laws of more than one instruction -/

/-- Settles O42: the sum less its right operand is the left one, in the ring of 32-bit patterns. -/
theorem subUndoesAdd : Obligations.SubUndoesAdd := by
  intro s u v a b rest hs hcap hadd hpush
  rw [exec_of_completes (.add hs (alu_add _ a b))] at hadd
  cases hadd
  have room : rest.length + 1 ≠ s.cfg.stackCap := by
    rw [hs, List.length_cons, List.length_cons] at hcap
    omega
  rw [exec_of_completes (.push (by exact room))] at hpush
  cases hpush
  refine ⟨_, exec_of_completes (.sub rfl (alu_sub _ (a + b) b)), ?_⟩
  rw [BitVec.add_sub_cancel]

/-- Two addresses that name a cell name the same one only if they are equal. -/
theorem cellIndex_inj {a b : Word} (ha : 0 ≤ a.toInt) (hb : 0 ≤ b.toInt) :
    cellIndex a = cellIndex b ↔ a = b := by
  rw [cellIndex_eq_iff hb, cellIndex, Int.toNat_of_nonneg ha, BitVec.toInt_inj]

/-- Settles O43: the law of a read after a write, on the memory that STORE left. -/
theorem loadAfterStoreGivesTheValue : Obligations.LoadAfterStoreGivesTheValue := by
  intro s t u addr v rest below other hwf hs hlo hhi holo hohi hstore humem hucfg hus
  rw [exec_store_valid hs (State.addrValid_iff.mpr ⟨hlo, hhi⟩)] at hstore
  cases hstore
  have hother : u.addrValid other = true := State.addrValid_iff.mpr ⟨holo, by rw [hucfg]; exact hohi⟩
  have hread : (s.mem.write (cellIndex addr) v).read (cellIndex other) =
      if other = addr then v else s.mem.read (cellIndex other) := by
    rw [Memory.read_write hwf]
    simp only [cellIndex_inj holo hlo]
  rw [exec_of_completes (.load hus hother), humem, hread]
  rfl

/-- Settles O44: the frame that CALL saved is the innermost one again. -/
theorem retUndoesCall : Obligations.RetUndoesCall := by
  intro s t u target room hlo hhi hcall hcalls
  rw [exec_of_completes (.call room (State.targetValid_iff.mpr ⟨hlo, hhi⟩))] at hcall
  cases hcall
  exact exec_of_completes (.ret hcalls)

end Sys2Proof.Machine
end

section
/-!
PROOFS. The text of a printed value (45_output.md R161): the digits that `decimal` writes are the shortest
numeral of the magnitude.
-/
namespace Sys2Proof.Machine

/-- The value of a row of digit bytes, most significant first. -/
def digitsValue (digits : List Byte) : Nat := digits.foldl (fun n d => 10 * n + (d.toNat - 0x30)) 0

/-- `digits` is the decimal numeral of `n` with no leading zero. -/
structure IsNumeral (n : Nat) (digits : List Byte) : Prop where
  ne_nil : digits ≠ []
  isDigit : ∀ d ∈ digits, 0x30 ≤ d.toNat ∧ d.toNat ≤ 0x39
  shortest : digits.head? = some 0x30#8 → digits = [0x30#8]
  value : digitsValue digits = n

theorem toNat_digitByte {d : Nat} (h : d < 10) : (digitByte d).toNat = 0x30 + d := by
  rw [digitByte, BitVec.toNat_ofNat]
  omega

theorem digitByte_range {d : Nat} (h : d < 10) :
    0x30 ≤ (digitByte d).toNat ∧ (digitByte d).toNat ≤ 0x39 := by
  rw [toNat_digitByte h]
  omega

theorem digitsValue_concat (digits : List Byte) {d : Nat} (h : d < 10) :
    digitsValue (digits ++ [digitByte d]) = 10 * digitsValue digits + d := by
  rw [digitsValue, List.foldl_concat, toNat_digitByte h, Nat.add_sub_cancel_left]
  rfl

theorem isNumeral_digit {n : Nat} (h : n < 10) : IsNumeral n [digitByte n] where
  ne_nil := List.cons_ne_nil _ _
  isDigit d hd := by
    rw [List.mem_singleton.mp hd]
    exact digitByte_range h
  shortest hhead := congrArg (· :: []) (Option.some.inj hhead)
  value := by simpa [digitsValue] using digitsValue_concat [] h

/-- One more digit: the numeral of `n / 10` has no zero in front, so neither has the longer one. -/
theorem IsNumeral.concat {n : Nat} {digits : List Byte} (h : IsNumeral (n / 10) digits) (hn : 10 ≤ n) :
    IsNumeral n (digits ++ [digitByte (n % 10)]) where
  ne_nil := List.concat_ne_nil _ _
  isDigit d hd := by
    obtain hd | hd := List.mem_append.mp hd
    · exact h.isDigit d hd
    · rw [List.mem_singleton.mp hd]
      exact digitByte_range (Nat.mod_lt n (by decide))
  shortest hhead := by
    rw [List.head?_append_of_ne_nil _ h.ne_nil] at hhead
    have hvalue := h.value
    rw [h.shortest hhead] at hvalue
    have hzero : digitsValue [0x30#8] = 0 := rfl
    omega
  value := by
    rw [digitsValue_concat digits (Nat.mod_lt n (by decide)), h.value]
    omega

theorem decimalFrom_digit (fuel : Nat) {n : Nat} (tail : List Byte) (h : n < 10) :
    decimalFrom (fuel + 1) n tail = [digitByte n] ++ tail :=
  if_pos h

/-- With fuel for its digits, `decimalFrom` puts the numeral in front of the tail. -/
theorem decimalFrom_eq_append (fuel : Nat) {n : Nat} (tail : List Byte) (h : n < 10 ^ (fuel + 1)) :
    ∃ digits, decimalFrom (fuel + 1) n tail = digits ++ tail ∧ IsNumeral n digits := by
  induction fuel generalizing n tail with
  | zero => exact ⟨_, decimalFrom_digit 0 tail h, isNumeral_digit h⟩
  | succ fuel ih =>
    by_cases hn : n < 10
    · exact ⟨_, decimalFrom_digit _ tail hn, isNumeral_digit hn⟩
    · have hlt : n / 10 < 10 ^ (fuel + 1) := Nat.div_lt_of_lt_mul (by rwa [← Nat.pow_succ'])
      obtain ⟨digits, hdec, hnum⟩ := ih (digitByte (n % 10) :: tail) hlt
      refine ⟨digits ++ [digitByte (n % 10)], ?_, hnum.concat (Nat.le_of_not_lt hn)⟩
      rw [decimalFrom, if_neg hn, hdec, List.append_assoc, List.singleton_append]

theorem isNumeral_decimal {n : Nat} (h : n < 10 ^ 10) : IsNumeral n (decimal n) := by
  obtain ⟨digits, hdec, hnum⟩ := decimalFrom_eq_append 9 [] h
  rw [List.append_nil] at hdec
  rwa [decimal, hdec]

theorem natAbs_toInt_lt (v : Word) : v.toInt.natAbs < 10 ^ 10 := by
  have hlo := BitVec.le_toInt v
  have hhi := BitVec.toInt_lt (x := v)
  omega

/-- Settles O47: the digits are the numeral of the magnitude, which has at most ten of them. -/
theorem renderedLineReadsBack : Obligations.RenderedLineReadsBack := by
  intro v
  have hnum := isNumeral_decimal (natAbs_toInt_lt v)
  refine ⟨decimal v.toInt.natAbs, ?_, hnum.ne_nil, hnum.isDigit, hnum.shortest, hnum.value⟩
  rw [renderLine, numeral]
  split <;> rfl

end Sys2Proof.Machine
end

section
/-!
PROOFS. One step: the loop iteration (40_interpreter_loop.md R80 to R91), the host's operations
(46_host_interface.md R166 to R174), and steps that repeat.
-/
namespace Sys2Proof.Machine

/-! ### Steps without a host request -/

section
variable {s : State}

theorem step_running (hreq : s.request = none) (hrun : s.status = .running) : step s = s.iterate := by
  simp only [step, hreq, State.proceed, hrun]

theorem step_idle (hreq : s.request = none) (hidle : s.status ≠ .running) : step s = .next s := by
  cases hst : s.status with
  | running => exact absurd hst hidle
  | ready | halted => simp only [step, hreq, State.proceed, hst]

theorem State.iterate_of_decode {i : Instr} {rest : List Byte}
    (h : decode (s.code.drop s.ip) = .ok (i, rest)) : s.iterate = exec i s := by
  rw [State.iterate, State.codeLength_eq, if_neg (Nat.not_le.mpr (State.ip_lt_of_decode h)),
    State.fetch_of_decode h]

/-- Bytes that do not decode raise the fault of the decoder, where there is a byte to decode. -/
theorem State.iterate_of_error {e : DecodeError} (hip : s.ip < s.code.length)
    (h : decode (s.code.drop s.ip) = .error e) : s.iterate = .next (s.raise (faultOfDecode e)) := by
  rw [State.iterate, State.codeLength_eq, if_neg (Nat.not_le.mpr hip), State.fetch_of_error h]

theorem State.iterate_past_end (h : s.code.length ≤ s.ip) : s.iterate = .next s.haltNormal :=
  if_pos h

theorem State.iterate_next (s : State) : ∃ t, s.iterate = .next t := by
  by_cases hip : s.code.length ≤ s.ip
  · exact ⟨_, State.iterate_past_end hip⟩
  · cases h : decode (s.code.drop s.ip) with
    | ok p =>
      obtain ⟨t, ht⟩ := exec_next p.1 s
      exact ⟨t, (State.iterate_of_decode h).trans ht⟩
    | error e => exact ⟨_, State.iterate_of_error (Nat.lt_of_not_le hip) h⟩

theorem step_of_decode {i : Instr} {rest : List Byte} (hreq : s.request = none)
    (hrun : s.status = .running) (h : decode (s.code.drop s.ip) = .ok (i, rest)) : step s = exec i s :=
  (step_running hreq hrun).trans (State.iterate_of_decode h)

end

/-- Settles O6: a running core iterates, and the iteration runs what it fetched. -/
theorem stepRunsTheDecodedInstruction : Obligations.StepRunsTheDecodedInstruction :=
  fun _ _ _ hreq hrun h _ => step_of_decode hreq hrun h

/-- Settles O7: past the end of the code the iteration halts. -/
theorem endOfCodeHaltsNormal : Obligations.EndOfCodeHaltsNormal :=
  fun _ hreq hrun hend => (step_running hreq hrun).trans (State.iterate_past_end hend)

/-- Settles O8: the decoder refuses either kind of bytes, and the iteration raises the fault of its reason. -/
theorem undecodableBytesRaiseTheirFault : Obligations.UndecodableBytesRaiseTheirFault := by
  intro s opcode rest hreq hrun hcode
  have hip : s.ip < s.code.length := by
    rw [← List.drop_eq_nil_iff.not.trans Nat.not_le, hcode]
    exact List.cons_ne_nil _ _
  have fault {e : DecodeError} (he : decode (opcode :: rest) = .error e) :
      step s = .next (s.raise (faultOfDecode e)) :=
    (step_running hreq hrun).trans (State.iterate_of_error hip (hcode.symm ▸ he))
  exact ⟨fun h => fault (decode_unknown rest h), fun ⟨hop, hlen⟩ => fault (decode_truncated hop hlen)⟩

/-- Settles O13: a running core's iteration completes, and an idle core answers itself. -/
theorem everyStepOfTheCoreCompletes : Obligations.EveryStepOfTheCoreCompletes := by
  intro s hreq
  by_cases hrun : s.status = .running
  · rw [step_running hreq hrun]
    exact s.iterate_next
  · exact ⟨s, step_idle hreq hrun⟩

/-! ### Steps that repeat -/

/-- A run of one step more is a step and then a run. -/
theorem run_succ_of_step {M : Host.Core} {s u : M.State} (n : Nat) (h : M.step s = .next u) :
    M.run (n + 1) s = M.run n u := by
  rw [Host.Core.run, h]

/-- A run that answers a next state took each of its steps. -/
theorem run_succ_eq_next {M : Host.Core} {n : Nat} {s t : M.State} (h : M.run (n + 1) s = .next t) :
    ∃ u, M.step s = .next u ∧ M.run n u = .next t := by
  rw [Host.Core.run] at h
  cases hstep : M.step s with
  | next u =>
    rw [hstep] at h
    exact ⟨u, rfl, h⟩
  | fault r =>
    rw [hstep] at h
    cases h
  | refused r =>
    rw [hstep] at h
    cases h

/-- A state that steps to itself stays for ever. -/
theorem run_of_step_self {s : State} (h : step s = .next s) (n : Nat) :
    Host.Core.run Sys2Proof.core n s = .next s := by
  induction n with
  | zero => rfl
  | succ n ih => exact (run_succ_of_step n h).trans ih

/-- Settles O11: a running core iterates, an idle one steps to itself. -/
theorem idleUnlessRunning : Obligations.IdleUnlessRunning := by
  intro s hreq
  refine ⟨step_running hreq, fun hidle => run_of_step_self (step_idle hreq hidle), fun o ho => ?outcome⟩
  case outcome => simp only [State.outcome, ho]

/-- Settles O12: the JMP is decoded where it stands, its target is inside the code, and it steps to itself. -/
theorem jumpToItselfRunsForever : Obligations.JumpToItselfRunsForever := by
  intro s target rest hreq hrun hcode htarget
  have hdec : decode (s.code.drop s.ip) = .ok (.jmp target, rest) := by rw [hcode, decode_encode_append]
  have hip := State.ip_lt_of_decode hdec
  have hvalid : s.targetValid target = true := State.targetValid_iff.mpr (by omega)
  have hself : targetOffset target = s.ip := by rw [targetOffset, htarget, Int.toNat_natCast]
  refine run_of_step_self ?_
  rw [step_of_decode hreq hrun hdec, exec_of_completes (.jmp hvalid), hself]

/-! ### The host's operations -/

theorem step_request {s : State} {r : HostRequest} (h : s.request = some r) :
    step s = s.serveRequest r := by
  simp only [step, h]

theorem State.isRunning_of_running {s : State} (h : s.status = .running) : s.isRunning = true :=
  decide_eq_true h

theorem State.isRunning_of_idle {s : State} (h : s.status ≠ .running) : s.isRunning = false :=
  decide_eq_false h

theorem step_reset {s : State} (hreq : s.request = some .reset) (hidle : s.status ≠ .running) :
    step s = .next (State.fresh s.cfg s.code s.draws) := by
  rw [step_request hreq, State.serveRequest, State.serveReset, State.isRunning_of_idle hidle]
  rfl

/-- construct outside a run is served inside the bounds and refused outside them. -/
theorem step_construct {s : State} {c : Config} {p : List Byte}
    (hreq : s.request = some (.construct c p)) (hidle : s.status ≠ .running) :
    step s = if launchOk c p then .next (State.fresh c p s.draws) else .refused .launchOutOfBounds := by
  rw [step_request hreq, State.serveRequest, State.serveConstruct, State.isRunning_of_idle hidle]
  rfl

/-- Settles O14: run() in status Ready is the run entry. -/
theorem runRequestEntersTheLoop : Obligations.RunRequestEntersTheLoop := by
  intro s hreq hready
  rw [step_request hreq, State.serveRequest, State.serveRun, if_pos hready]
  rfl

/-- Settles O15: reset leaves the fresh state of the same code and parameters. -/
theorem resetRestoresEveryElement : Obligations.ResetRestoresEveryElement := by
  intro s hreq hidle
  exact ⟨_, step_reset hreq hidle, rfl, rfl, rfl, rfl, rfl, fun _ => rfl, rfl, rfl, rfl, rfl, rfl⟩

/-- Settles O16: both requests leave the fresh state of the code and parameters. -/
theorem resetIsConstructWithTheSameCode : Obligations.ResetIsConstructWithTheSameCode := by
  intro s hidle hlaunch
  have reset : step { s with request := some .reset } = .next (State.fresh s.cfg s.code s.draws) :=
    step_reset rfl hidle
  have construct : step { s with request := some (.construct s.cfg s.code) } =
      .next (State.fresh s.cfg s.code s.draws) :=
    (step_construct (s := { s with request := some (.construct s.cfg s.code) }) rfl hidle).trans
      (if_pos hlaunch)
  exact reset.trans construct.symm

theorem launchOk_iff {c : Config} {p : List Byte} :
    launchOk c p = true ↔ c.stackCap ≤ 2147483647 ∧ c.callCap ≤ 2147483647 ∧ c.memSize ≤ 2147483648 ∧
      p.length ≤ 2147483647 := by
  simp [launchOk, Config.wf, Config.stackCapOk, Config.callCapOk, Config.memSizeOk, codeLengthOk, and_assoc]

/-- Settles O17: each request against the status, and construct against the bounds of the sizes. -/
theorem hostRequestsOutsideTheContractAreRefused :
    Obligations.HostRequestsOutsideTheContractAreRefused := by
  intro s
  refine ⟨fun ⟨hreq, hst⟩ => ?run, fun ⟨hreq, hrun⟩ => ?reset, fun c p ⟨hreq, hrun⟩ => ?busy,
    fun c p ⟨hreq, hidle, hbounds⟩ => ?outside, fun c p ⟨hreq, hidle, hbounds⟩ => ?inside⟩
  case run => rw [step_request hreq, State.serveRequest, State.serveRun, if_neg hst]
  case reset =>
    rw [step_request hreq, State.serveRequest, State.serveReset, State.isRunning_of_running hrun]
    rfl
  case busy =>
    rw [step_request hreq, State.serveRequest, State.serveConstruct, State.isRunning_of_running hrun]
    rfl
  case outside => rw [step_construct hreq hidle, if_neg (mt launchOk_iff.mp hbounds)]
  case inside => rw [step_construct hreq hidle, if_pos (launchOk_iff.mpr hbounds)]

/-! ### Introspection, the fault code port, raising a fault -/

/-- Settles O18: outside a run a read is one of the cells, during a run it answers nothing. -/
theorem introspectionReadsStackAndMemory : Obligations.IntrospectionReadsStackAndMemory := by
  intro s
  refine ⟨fun hidle => ?idle, fun hrun => ?running⟩
  case running =>
    have hr := State.isRunning_of_running hrun
    exact ⟨fun i => by rw [State.readStack, hr, if_pos rfl],
      fun a => by rw [State.readMemory, hr, if_pos rfl]⟩
  case idle =>
    have hstack (i : Nat) : s.readStack i = s.stack.reverse[i]? := by
      rw [State.readStack, State.isRunning_of_idle hidle, State.stackCells, if_neg Bool.false_ne_true]
    have hmem (a : Nat) : s.readMemory a = if a < s.cfg.memSize then some (s.mem.read a) else none := by
      rw [State.readMemory, State.isRunning_of_idle hidle, if_neg Bool.false_ne_true]
    refine ⟨fun i hi => ?_, fun i hi => ?_, fun a ha => ?_, fun a ha => ?_⟩
    · rw [hstack, List.getElem?_reverse hi, List.getElem?_eq_getElem]
    · rw [hstack, List.getElem?_eq_none (by rwa [List.length_reverse])]
    · rw [hmem, if_pos ha]
    · rw [hmem, if_neg (Nat.not_lt.mpr ha)]

theorem faultCode_ne_zero (k : Fault) : faultCode k ≠ 0 := by cases k <;> decide

/-- Settles O19: the port is 0 without a fault, and no kind has the number 0. -/
theorem faultCodePortTellsTheKind : Obligations.FaultCodePortTellsTheKind := by
  have hfault (s : State) (k : Fault) (h : s.status = .halted (.fault k)) :
      s.portFaultCode = faultCode k := by
    simp only [State.portFaultCode, h]
  refine ⟨fun s => ⟨fun hzero k hk => ?_, fun hnone => ?_⟩, hfault, rfl⟩
  · exact faultCode_ne_zero k ((hfault s k hk).symm.trans hzero)
  · unfold State.portFaultCode
    split
    · exact absurd ‹_› (hnone _)
    · rfl
    · rfl
    · rfl

/-- Settles O23: both clauses are what `raise` writes. -/
theorem raiseRecordsTheFaultAlone : Obligations.RaiseRecordsTheFaultAlone := fun _ _ => ⟨rfl, rfl⟩

end Sys2Proof.Machine
end

section
/-!
PROOFS. The invariant of the machine and its run state machine: a completed instruction keeps each part of the
invariant, halting keeps all of it, and the host's operations establish it.
-/
namespace Sys2Proof.Machine

/-! ### What a completed instruction keeps -/

section
variable {s t : State} {i : Instr}

/-- An instruction decoded at `ip` ends inside the code. -/
theorem State.ip_add_length_le_of_decode {rest : List Byte} (h : decode (s.code.drop s.ip) = .ok (i, rest)) :
    s.ip + i.length ≤ s.code.length := by
  have hip := State.ip_lt_of_decode h
  have hlen := congrArg List.length (encode_append_of_decode h)
  rw [List.length_drop, List.length_append, encode_length] at hlen
  omega

theorem Completes.sizesOk (h : Completes s i t) (hinv : s.SizesOk) : t.SizesOk := by
  rw [State.SizesOk, h.cfg_eq, h.code_eq]
  exact hinv

/-- `ip` goes past the instruction, to a target, or to a saved return address: all inside the code. -/
theorem Completes.ipOk (h : Completes s i t) (hfit : s.ip + i.length ≤ s.code.length)
    (hframes : s.FramesOk) : t.IpOk := by
  rw [State.IpOk, State.codeLength_eq, h.code_eq]
  obtain ⟨hip, -⟩ | ⟨x, -, -, hx, hip⟩ | ⟨-, f, rest, hc, hip⟩ := h.ip_cases
  · rwa [hip]
  · omega
  · obtain ⟨-, hret, -⟩ := hframes f (hc ▸ List.mem_cons_self)
    rwa [hip]

/-- Only PUSH and DUP leave more entries than they find, and they find room. -/
theorem Completes.stackOk (h : Completes s i t) (hinv : s.StackOk) : t.StackOk := by
  rw [State.StackOk, h.cfg_eq, State.sp_eq]
  rw [State.StackOk, State.sp_eq] at hinv
  cases h with
  | nop | jmp | call | ret | stop => exact hinv
  | push room => exact Nat.lt_of_le_of_ne hinv room
  | dup hs room =>
    have hlt := Nat.lt_of_le_of_ne hinv room
    rwa [hs] at hlt
  | pop hs | swap hs | add hs | sub hs | mul hs | div hs | jzTaken hs | jzUntaken hs | jnzTaken hs
  | jnzUntaken hs | load hs | store hs | print hs =>
    simp only [hs, List.length_cons] at hinv ⊢
    omega

/-- Only CALL adds a frame, and it finds room. -/
theorem Completes.callsOk (h : Completes s i t) (hinv : s.CallsOk) : t.CallsOk := by
  rw [State.CallsOk, h.cfg_eq, State.csp_eq]
  rw [State.CallsOk, State.csp_eq] at hinv
  cases h with
  | call room => exact Nat.lt_of_le_of_ne hinv room
  | ret hc =>
    rw [hc] at hinv
    exact Nat.le_of_succ_le hinv
  | _ => exact hinv

/-- The frame that CALL adds holds the offset just past it and the size of the operand stack. -/
theorem Completes.framesOk (h : Completes s i t) (hfit : s.ip + i.length ≤ s.code.length)
    (hstack : s.StackOk) (hinv : s.FramesOk) : t.FramesOk := by
  cases h with
  | call =>
    intro f hf
    obtain rfl | hf := List.mem_cons.mp hf
    · exact ⟨Nat.le_add_left 5 s.ip, hfit, hstack⟩
    · exact hinv f hf
  | ret hc => exact fun f hf => hinv f (hc ▸ List.mem_cons_of_mem _ hf)
  | _ => exact hinv

theorem Completes.memOk (h : Completes s i t) (hinv : s.MemOk) : t.MemOk := by
  obtain ⟨hwf, hlt⟩ := hinv
  cases h with
  | @store addr v _ hs ha =>
    have hkeeps := State.memWrite_keeps_memory (State.memWrite_valid v ha) hwf hlt
    exact hkeeps
  | _ => exact ⟨hwf, hlt⟩

/-- A running core is left running, with the flag set, or halted, with the flag clear. -/
theorem Completes.flagOk (h : Completes s i t) (hinv : s.FlagOk) : t.FlagOk := by
  obtain ⟨-, hst, hrun⟩ | ⟨-, hst, hrun⟩ := h.status_cases
  · rw [State.FlagOk, hst, hrun]
    exact hinv
  · rw [State.FlagOk, hst, hrun]
    rfl

theorem Completes.status_ne_ready (h : Completes s i t) (hrun : s.status = .running) :
    t.status ≠ .ready := by
  obtain ⟨-, hst, -⟩ | ⟨-, hst, -⟩ := h.status_cases
  · rw [hst, hrun]
    exact nofun
  · rw [hst]
    exact nofun

theorem Completes.inv (h : Completes s i t) (hrun : s.status = .running)
    (hfit : s.ip + i.length ≤ s.code.length) (hinv : s.Inv) : t.Inv := by
  obtain ⟨hsizes, -, hflag, hstack, hcalls, hframes, hmem, -⟩ := hinv
  exact ⟨h.sizesOk hsizes, h.ipOk hfit hframes, h.flagOk hflag, h.stackOk hstack, h.callsOk hcalls,
    h.framesOk hfit hstack hframes, h.memOk hmem, fun hready => absurd hready (h.status_ne_ready hrun)⟩

/-! ### Halting and the host's operations -/

/-- A halt writes the status and the flag alone, and leaves them in agreement. -/
theorem State.inv_halt (o : RunOutcome) (hinv : s.Inv) :
    State.Inv { s with running := false, status := .halted o } := by
  obtain ⟨hsizes, hip, -, hstack, hcalls, hframes, hmem, -⟩ := hinv
  exact ⟨hsizes, hip, rfl, hstack, hcalls, hframes, hmem, nofun⟩

theorem State.inv_fresh {c : Config} {p : List Byte} (draws : Nat) (h : launchOk c p = true) :
    (State.fresh c p draws).Inv :=
  ⟨h, Nat.zero_le _, rfl, Nat.zero_le _, Nat.zero_le _, nofun, ⟨rfl, nofun⟩,
    fun _ => ⟨rfl, rfl, rfl, rfl, rfl⟩⟩

theorem State.inv_runEntry (hinv : s.Inv) : State.Inv { s.runEntry with request := none } := by
  obtain ⟨hsizes, -, -, hstack, hcalls, hframes, hmem, -⟩ := hinv
  exact ⟨hsizes, Nat.zero_le _, rfl, hstack, hcalls, hframes, hmem, nofun⟩

/-! ### The step -/

theorem exec_keeps_inv {rest : List Byte} (hrun : s.status = .running)
    (hdec : decode (s.code.drop s.ip) = .ok (i, rest)) (h : exec i s = .next t) (hinv : s.Inv) : t.Inv := by
  obtain hc | ⟨k, -, rfl⟩ := exec_cases h
  · exact hc.inv hrun (State.ip_add_length_le_of_decode hdec) hinv
  · exact State.inv_halt (.fault k) hinv

theorem State.iterate_keeps_inv (hrun : s.status = .running) (h : s.iterate = .next t) (hinv : s.Inv) :
    t.Inv := by
  obtain ⟨-, rfl⟩ | ⟨i, rest, hdec, hexec⟩ | ⟨e, -, rfl⟩ := State.iterate_cases h
  · exact State.inv_halt .normal hinv
  · exact exec_keeps_inv hrun hdec hexec hinv
  · exact State.inv_halt (.fault (faultOfDecode e)) hinv

theorem State.serveRequest_keeps_inv {r : HostRequest} (h : s.serveRequest r = .next t) (hinv : s.Inv) :
    t.Inv := by
  obtain ⟨c, p, -, -, hlaunch, rfl⟩ | ⟨-, -, rfl⟩ | ⟨-, -, rfl⟩ := State.serveRequest_cases h
  · exact State.inv_fresh s.draws hlaunch
  · exact State.inv_runEntry hinv
  · exact State.inv_fresh s.draws hinv.1

end

/-- Settles O56: a served request establishes or keeps the invariant, an iteration keeps it, and an idle core
does not change. -/
theorem stepKeepsTheInvariant : Obligations.StepKeepsTheInvariant := by
  intro s t hinv h
  obtain ⟨r, -, hserve⟩ | ⟨-, hrun, hiter⟩ | ⟨-, -, rfl⟩ := step_cases h
  · exact State.serveRequest_keeps_inv hserve hinv
  · exact State.iterate_keeps_inv hrun hiter hinv
  · exact hinv

/-- Settles O57: the reset state is fresh, and the default sizes are within their bounds. -/
theorem resetMeetsTheInvariant : Obligations.ResetMeetsTheInvariant := State.inv_fresh 0 (by decide)

/-! ### The run state machine -/

/-- An iteration leaves a running core running or halted. -/
theorem State.iterate_status {s t : State} (h : s.iterate = .next t) :
    t.status = s.status ∨ ∃ o, t.status = .halted o := by
  obtain ⟨-, rfl⟩ | ⟨i, rest, -, hexec⟩ | ⟨e, -, rfl⟩ := State.iterate_cases h
  · exact .inr ⟨_, rfl⟩
  · obtain hc | ⟨k, -, rfl⟩ := exec_cases hexec
    · obtain ⟨-, hst, -⟩ | ⟨-, hst, -⟩ := hc.status_cases
      · exact .inl hst
      · exact .inr ⟨_, hst⟩
    · exact .inr ⟨_, rfl⟩
  · exact .inr ⟨_, rfl⟩

/-- Settles O58: each request and the iteration by the statuses it leads from and to. -/
theorem statusTransitionsAreThoseOfTheRunMachine :
    Obligations.StatusTransitionsAreThoseOfTheRunMachine := by
  intro s t h
  obtain ⟨r, hreq, hserve⟩ | ⟨hreq, hrun, hiter⟩ | ⟨-, -, rfl⟩ := step_cases h
  · obtain ⟨c, p, rfl, hidle, -, rfl⟩ | ⟨rfl, hready, rfl⟩ | ⟨rfl, hidle, rfl⟩ :=
      State.serveRequest_cases hserve
    · exact .inr (.inr (.inr ⟨hidle, rfl, .inr ⟨c, p, hreq⟩⟩))
    · exact .inr (.inl ⟨hready, rfl, hreq⟩)
    · exact .inr (.inr (.inr ⟨hidle, rfl, .inl hreq⟩))
  · obtain hst | hhalt := State.iterate_status hiter
    · exact .inl hst
    · exact .inr (.inr (.inl ⟨hrun, hhalt, hreq⟩))
  · exact .inl rfl

end Sys2Proof.Machine
end

section
/-!
PROOFS. Runs of any length without a host request: what they keep (20_memory.md R40, 10_state.md R30), and
straight-line code, whose instructions run in order (40_interpreter_loop.md R81, R82, R91).
-/
namespace Sys2Proof.Machine

/-! ### What a run keeps -/

/-- From `s` to `t` the code, the parameters and the pending request are the same and the output only grew. -/
structure State.Extends (s t : State) : Prop where
  request : t.request = s.request
  cfg : t.cfg = s.cfg
  code : t.code = s.code
  out : s.out <+: t.out

theorem State.Extends.refl (s : State) : s.Extends s := ⟨rfl, rfl, rfl, List.prefix_rfl⟩

theorem State.Extends.trans {s t u : State} (h : s.Extends t) (h' : t.Extends u) : s.Extends u :=
  ⟨h'.request.trans h.request, h'.cfg.trans h.cfg, h'.code.trans h.code, h.out.trans h'.out⟩

theorem Completes.extends {s t : State} {i : Instr} (h : Completes s i t) : s.Extends t := by
  refine ⟨h.request_eq, h.cfg_eq, h.code_eq, ?_⟩
  obtain ⟨-, hout⟩ | ⟨-, v, -, -, hout⟩ := h.out_cases
  · rw [hout]
  · exact ⟨[v], hout.symm⟩

theorem State.iterate_extends {s t : State} (h : s.iterate = .next t) : s.Extends t := by
  obtain ⟨-, rfl⟩ | ⟨i, rest, -, hexec⟩ | ⟨e, -, rfl⟩ := State.iterate_cases h
  · exact ⟨rfl, rfl, rfl, List.prefix_rfl⟩
  · obtain hc | ⟨k, -, rfl⟩ := exec_cases hexec
    · exact hc.extends
    · exact ⟨rfl, rfl, rfl, List.prefix_rfl⟩
  · exact ⟨rfl, rfl, rfl, List.prefix_rfl⟩

theorem step_extends {s t : State} (hreq : s.request = none) (h : step s = .next t) : s.Extends t := by
  obtain ⟨r, hr, -⟩ | ⟨-, -, hiter⟩ | ⟨-, -, rfl⟩ := step_cases h
  · rw [hreq] at hr
    cases hr
  · exact State.iterate_extends hiter
  · exact State.Extends.refl _

theorem run_extends {n : Nat} {s t : State} (hreq : s.request = none)
    (h : Host.Core.run Sys2Proof.core n s = .next t) : s.Extends t := by
  induction n generalizing s with
  | zero =>
    cases h
    exact State.Extends.refl _
  | succ n ih =>
    obtain ⟨u, hstep, hrun⟩ := run_succ_eq_next h
    have hu := step_extends hreq hstep
    exact hu.trans (ih (hu.request.trans hreq) hrun)

/-- Settles O59: every step extends its state, by induction on the number of steps. -/
theorem runsKeepCodeAndExtendOutput : Obligations.RunsKeepCodeAndExtendOutput := by
  intro n s t hreq h
  obtain ⟨hrequest, hcfg, hcode, more, hmore⟩ := run_extends hreq h
  exact ⟨hrequest.trans hreq, hcfg, hcode, more, hmore.symm⟩

/-! ### Straight-line code -/

theorem encodeProgram_append (is js : List Instr) :
    encodeProgram (is ++ js) = encodeProgram is ++ encodeProgram js := by
  induction is with
  | nil => rfl
  | cons i is ih => rw [List.cons_append, encodeProgram, encodeProgram, ih, List.append_assoc]

theorem encodeProgram_singleton (i : Instr) : encodeProgram [i] = encode i := List.append_nil _

/-- An instruction that leaves the core running completed. -/
theorem completes_of_exec_running {s t : State} {i : Instr} (h : exec i s = .next t)
    (hrun : t.status = .running) : Completes s i t := by
  obtain hc | ⟨k, -, rfl⟩ := exec_cases h
  · exact hc
  · cases hrun

/-- Without a target, and no RET, control goes on behind the instruction. -/
theorem Completes.ip_eq_add_length {s t : State} {i : Instr} (h : Completes s i t)
    (htarget : i.target? = none) (hret : i ≠ .ret) : t.ip = s.ip + i.length := by
  obtain ⟨hip, -⟩ | ⟨x, hx, -⟩ | ⟨hi, -⟩ := h.ip_cases
  · exact hip
  · rw [htarget] at hx
    cases hx
  · exact absurd hi hret

/-- `s` is running, with no request pending, at the place in its code where `is` is encoded behind `before`. -/
structure State.RunsAt (s : State) (before is : List Instr) : Prop where
  request : s.request = none
  running : s.status = .running
  ip : s.ip = (encodeProgram before).length
  code : ∃ tail, s.code = encodeProgram before ++ encodeProgram is ++ tail

theorem State.RunsAt.decode {s : State} {before is : List Instr} {i : Instr}
    (h : s.RunsAt before (i :: is)) : ∃ rest, decode (s.code.drop s.ip) = .ok (i, rest) := by
  obtain ⟨tail, hcode⟩ := h.code
  refine ⟨encodeProgram is ++ tail, ?_⟩
  rw [hcode, h.ip, List.append_assoc, List.drop_left, encodeProgram, List.append_assoc,
    decode_encode_append]

/-- One instruction of straight-line code is one step, which ends where the rest begins. -/
theorem State.RunsAt.step {s u : State} {before is : List Instr} {i : Instr}
    (h : s.RunsAt before (i :: is)) (htarget : i.target? = none) (hret : i ≠ .ret)
    (hexec : exec i s = .next u) (hrun : u.status = .running) :
    Machine.step s = .next u ∧ u.RunsAt (before ++ [i]) is := by
  have hc := completes_of_exec_running hexec hrun
  obtain ⟨rest, hdec⟩ := h.decode
  obtain ⟨tail, hcode⟩ := h.code
  refine ⟨(step_of_decode h.request h.running hdec).trans hexec, hc.request_eq.trans h.request, hrun, ?ip,
    tail, ?code⟩
  case ip =>
    rw [hc.ip_eq_add_length htarget hret, h.ip, encodeProgram_append, encodeProgram_singleton,
      List.length_append, encode_length]
  case code =>
    rw [hc.code_eq, hcode, encodeProgram_append, encodeProgram_singleton, encodeProgram]
    simp only [List.append_assoc]

/-- `f` executes an instruction where the core is left running, and answers none in every other case. -/
structure ExecutesRunning (f : Option State → Instr → Option State) : Prop where
  none_stays (i : Instr) : f none i = none
  exec_of_some {u w : State} {i : Instr} (h : f (some u) i = some w) :
    exec i u = .next w ∧ w.status = .running

/-- A fold that ends in a state had one after its first instruction. -/
theorem ExecutesRunning.foldl_cons {f : Option State → Instr → Option State} (hf : ExecutesRunning f)
    {s t : State} {i : Instr} {is : List Instr} (h : (i :: is).foldl f (some s) = some t) :
    ∃ u, exec i s = .next u ∧ u.status = .running ∧ is.foldl f (some u) = some t := by
  rw [List.foldl_cons] at h
  cases hfirst : f (some s) i with
  | some u =>
    obtain ⟨hexec, hrun⟩ := hf.exec_of_some hfirst
    exact ⟨u, hexec, hrun, hfirst ▸ h⟩
  | none =>
    have hnone : is.foldl f none = none := List.foldl_fixed' hf.none_stays is
    rw [hfirst, hnone] at h
    cases h

/-- As many steps as there are instructions end where folding `exec` over them ends. -/
theorem run_of_foldl {f : Option State → Instr → Option State} (hf : ExecutesRunning f) (is : List Instr)
    {before : List Instr} {s t : State} (hs : s.RunsAt before is)
    (hplain : ∀ i ∈ is, i.target? = none ∧ i ≠ .ret ∧ i ≠ .stop) (h : is.foldl f (some s) = some t) :
    Host.Core.run Sys2Proof.core is.length s = .next t := by
  induction is generalizing before s with
  | nil =>
    cases h
    rfl
  | cons i is ih =>
    obtain ⟨u, hexec, hrun, hrest⟩ := hf.foldl_cons h
    obtain ⟨⟨htarget, hret, -⟩, hplain⟩ := List.forall_mem_cons.mp hplain
    obtain ⟨hstep, hu⟩ := hs.step htarget hret hexec hrun
    exact (run_succ_of_step is.length hstep).trans (ih hu hplain hrest)

/-- Settles O60: each instruction is decoded where the encoding of those before it ends, by induction on the
instructions. -/
theorem straightLineCodeRunsInOrder : Obligations.StraightLineCodeRunsInOrder := by
  intro is before s t hreq hrun hip hcode hplain hfold
  refine run_of_foldl ⟨fun i => rfl, fun {u w i} h => ?_⟩ is ⟨hreq, hrun, hip, hcode⟩ hplain hfold
  cases hexec : exec i u with
  | next v =>
    simp only [hexec] at h
    split_ifs at h with hv
    cases h
    exact ⟨rfl, hv⟩
  | fault r => simp [hexec] at h
  | refused r => simp [hexec] at h

end Sys2Proof.Machine
end
